-- ==== Sys2Proof/Word.lean ====
section
/-! DEFINITION. The word types of the switched-PWM block: the widths of spec/00_scope.md R5 and
spec/30_encoding.md R80. -/

namespace Sys2Proof

/-- A port register: one bit per pin, `PIN_W` = 8 (00_scope.md R5, R6). -/
abbrev Byte := BitVec 8

/-- A timer register, `WDT`, or an immediate: 16 bits (00_scope.md R5, `TIMER_W`). -/
abbrev Half := BitVec 16

/-- An operation word of the program store: 32 bits (30_encoding.md R80). -/
abbrev OpWord := BitVec 32

/-- A register address of the register space: 8 bits (20_memory.md R60). -/
abbrev RegAddr := BitVec 8

/-- A program-store address, the width of `pc`: 6 bits (10_state.md R40, 20_memory.md R60). -/
abbrev ProgAddr := BitVec 6

/-- A pin number within a port, 0 to `PIN_W` - 1 (00_scope.md R5, R6). -/
abbrev Pin := Fin 8

/-- The port register whose bit `b` is `f b` (00_scope.md R6: bit 0 is the least significant bit). -/
def ofPins (f : Pin → Bool) : Byte :=
  BitVec.ofBoolListLE [f 0, f 1, f 2, f 3, f 4, f 5, f 6, f 7]

end Sys2Proof
end

