-- ==== Sys2Proof/Syntax.lean ====
section
/-! DEFINITION. The seven operations of spec/opcode_table.json as a data type
(spec/30_encoding.md R84, spec/40_register_ops.md, spec/41_control_ops.md). -/

namespace Sys2Proof

/-- One operation of the sequencer. `reg` is an 8-bit register address (30_encoding.md R85), `imm`
the unsigned 16-bit immediate (R86), `bit` the bit index (R87) and `off` the signed word offset
`sext_8(off8)` (R88). -/
inductive Instr where
  /-- `WR reg, #imm`: write a whole register (40_register_ops.md R101). -/
  | wr (reg : RegAddr) (imm : Half)
  /-- `BIS reg, #imm`: set the bits of a mask (40_register_ops.md R102). -/
  | bis (reg : RegAddr) (imm : Half)
  /-- `BIC reg, #imm`: clear the bits of a mask (40_register_ops.md R103). -/
  | bic (reg : RegAddr) (imm : Half)
  /-- `BBS reg, #bit, target`: branch if a register bit is set (41_control_ops.md R111). -/
  | bbs (reg : RegAddr) (bit : Nat) (off : Int)
  /-- `BR target`: branch always (41_control_ops.md R112). -/
  | br (off : Int)
  /-- `SLEEP`: enable interrupts and enter the wait state (41_control_ops.md R113). -/
  | sleep
  /-- `RETI`: return from the handler (41_control_ops.md R114). -/
  | reti
deriving DecidableEq, Repr, Inhabited

end Sys2Proof
end

