-- ==== Sys2Proof/WellFormed.lean ====
section
/-! DEFINITION. Which operations an operation word can spell: the ranges of the fields of
spec/30_encoding.md R86 to R88. -/

namespace Sys2Proof

/-- `bit` is an unsigned bit index, 0 to 15 (30_encoding.md R87). -/
def bitIndexFits (bit : Nat) : Bool :=
  decide (bit < 16)

/-- `off` is `sext_8` of an 8-bit field, -128 to 127 (30_encoding.md R88). -/
def offsetFits (off : Int) : Bool :=
  decide (-128 ≤ off) && decide (off ≤ 127)

/-- The operation is one that a word can spell. Register-dependent checks (mapped, writable, immediate
fits, bit below the width, legal value) are made at execution (30_encoding.md R85, R91), not here. -/
def Instr.wf : Instr → Bool
  | .wr _ _ => true
  | .bis _ _ => true
  | .bic _ _ => true
  | .bbs _ bit off => bitIndexFits bit && offsetFits off
  | .br off => offsetFits off
  | .sleep => true
  | .reti => true

end Sys2Proof
end

