-- ==== Sys2Proof/Decode.lean ====
section
/-! DEFINITION. The decoder of spec/30_encoding.md R91, its encoder, and the match and mask values of
the same rule. -/

namespace Sys2Proof

/-- Why a word is illegal (30_encoding.md R89, R90). The spec has one outcome, `illegal`; the model
keeps the reason as its name. Safe (log 19): both lead to the same `IllegalOp`. -/
inductive DecodeError where
  /-- `op` is 0x0 or 0x8 to 0xF (30_encoding.md R90). -/
  | illegalOpcode
  /-- A bit that must be zero is set (30_encoding.md R89). -/
  | mustBeZero
deriving DecidableEq, Repr, Inhabited

/-- Field `op`, bits 31:28 (30_encoding.md R80). -/
def opField (w : OpWord) : BitVec 4 := w.extractLsb' 28 4

/-- Field `reg`, bits 27:20 (30_encoding.md R80). -/
def regField (w : OpWord) : RegAddr := w.extractLsb' 20 8

/-- Field `sub`, bits 19:16 (30_encoding.md R80). -/
def subField (w : OpWord) : BitVec 4 := w.extractLsb' 16 4

/-- Field `imm16`, bits 15:0 (30_encoding.md R80). -/
def immField (w : OpWord) : Half := w.extractLsb' 0 16

/-- Bits 15:8, zero in format B (30_encoding.md R82). -/
def midField (w : OpWord) : BitVec 8 := w.extractLsb' 8 8

/-- Field `off8`, bits 7:0 (30_encoding.md R82). -/
def offField (w : OpWord) : BitVec 8 := w.extractLsb' 0 8

/-- Bits 27:8, zero in `BR` (30_encoding.md R89). -/
def brZeroField (w : OpWord) : BitVec 20 := w.extractLsb' 8 20

/-- Bits 27:0, zero in format N (30_encoding.md R83). -/
def noOperandField (w : OpWord) : BitVec 28 := w.extractLsb' 0 28

/-- `i` where the must-be-zero bits hold 0, illegal otherwise (30_encoding.md R89). -/
def ifZero (zero : Bool) (i : Instr) : Except DecodeError Instr :=
  if zero then .ok i else .error .mustBeZero

/-- `decode` of 30_encoding.md R91: total on 32-bit words. -/
def decode (w : OpWord) : Except DecodeError Instr :=
  match (opField w).toNat with
  | 1 => ifZero (subField w == 0) (.wr (regField w) (immField w))
  | 2 => ifZero (subField w == 0) (.bis (regField w) (immField w))
  | 3 => ifZero (subField w == 0) (.bic (regField w) (immField w))
  | 4 => ifZero (midField w == 0) (.bbs (regField w) (subField w).toNat (offField w).toInt)
  | 5 => ifZero (brZeroField w == 0) (.br (offField w).toInt)
  | 6 => ifZero (noOperandField w == 0) .sleep
  | 7 => ifZero (noOperandField w == 0) .reti
  | _ => .error .illegalOpcode

/-- The instruction the decoder reads from the low `nbits` bits of `w`, every bit above them 0. One
operation is one 32-bit word, so there is no order of words or bytes (30_encoding.md R80,
20_memory.md R65). -/
def decodeTableWord (nbits w : Nat) : Option Instr :=
  match decode (BitVec.ofNat 32 (w % 2 ^ nbits)) with
  | .ok i => some i
  | .error _ => none

/-- A word of format R: `op ++ reg ++ 0x0 ++ imm16` (30_encoding.md R81, R92). -/
def formatR (op : BitVec 4) (reg : RegAddr) (imm : Half) : OpWord :=
  op ++ reg ++ (0 : BitVec 4) ++ imm

/-- A word of format B: `op ++ reg ++ bit ++ 0x00 ++ off8` (30_encoding.md R82, R92). -/
def formatB (op : BitVec 4) (reg : RegAddr) (bit : BitVec 4) (off : BitVec 8) : OpWord :=
  op ++ reg ++ bit ++ (0 : BitVec 8) ++ off

/-- A word of format N: `op` and 28 zero bits (30_encoding.md R83). -/
def formatN (op : BitVec 4) : OpWord :=
  op ++ (0 : BitVec 28)

/-- The word of an operation (30_encoding.md R81 to R84, R92). On an operation that is not well formed
the field is cut to its width. -/
def encode : Instr → OpWord
  | .wr reg imm => formatR 1 reg imm
  | .bis reg imm => formatR 2 reg imm
  | .bic reg imm => formatR 3 reg imm
  | .bbs reg bit off => formatB 4 reg (BitVec.ofNat 4 bit) (BitVec.ofInt 8 off)
  | .br off => formatB 5 0 0 (BitVec.ofInt 8 off)
  | .sleep => formatN 6
  | .reti => formatN 7

/-- The match value of the operation's row (30_encoding.md R91, spec/opcode_table.json). -/
def rowMatch : Instr → OpWord
  | .wr _ _ => 0x10000000
  | .bis _ _ => 0x20000000
  | .bic _ _ => 0x30000000
  | .bbs _ _ _ => 0x40000000
  | .br _ => 0x50000000
  | .sleep => 0x60000000
  | .reti => 0x70000000

/-- The mask value of the operation's row (30_encoding.md R91, spec/opcode_table.json). -/
def rowMask : Instr → OpWord
  | .wr _ _ => 0xF00F0000
  | .bis _ _ => 0xF00F0000
  | .bic _ _ => 0xF00F0000
  | .bbs _ _ _ => 0xF000FF00
  | .br _ => 0xFFFFFF00
  | .sleep => 0xFFFFFFFF
  | .reti => 0xFFFFFFFF

/-- The word spells an operation of `i`'s row: `w & mask = match` (30_encoding.md R91). -/
def spellsRow (w : OpWord) (i : Instr) : Bool :=
  w &&& rowMask i == rowMatch i

end Sys2Proof
end

