-- ==== Sys2Proof/Config.lean ====
section
/-! DEFINITION. What is fixed for one machine or comes from outside it: the parameters of
spec/00_scope.md R5, the values the environment and the scheduler choose, and the free schedule. -/

namespace Sys2Proof

/-- The two I/O ports, `N_PORTS` = 2 (00_scope.md R5, 10_state.md R21). -/
inductive PortId where
  | p0
  | p1
deriving DecidableEq, Repr, Inhabited

/-- The port's number, as the spec writes `PORT[0]` and `PORT[1]`. -/
def PortId.num : PortId → Nat
  | .p0 => 0
  | .p1 => 1

/-- What the outside does to a pin, `EXT` of 10_state.md R44. -/
inductive Drive where
  /-- Driven low from outside. -/
  | L
  /-- Driven high from outside. -/
  | H
  /-- Not driven from outside. -/
  | Z
deriving DecidableEq, Repr, Inhabited

/-- The low-power mode selector `LPM` (10_state.md R39). -/
inductive LowPower where
  /-- The sequencer's clock runs. -/
  | active
  /-- The low-power wait state: the sequencer has no step. -/
  | wait
deriving DecidableEq, Repr, Inhabited

/-- The record `SAVED` of 10_state.md R41: what acceptance saves and `RETI` restores. -/
structure SavedContext where
  pc : ProgAddr
  gie : Bool
  lpm : LowPower
deriving DecidableEq, Repr, Inhabited

/-- The environment's side of one port's pins, `EXT[p]` and `FLT[p]` of 10_state.md R44. -/
structure PinEnv where
  ext : Vector Drive 8
  flt : Vector Bool 8
deriving DecidableEq, Repr, Inhabited

/-- One change of the environment step of 44_port_pin_and_edge_logic.md R161. -/
inductive PinChange where
  /-- `EXT[p][b] <- d`. -/
  | ext (p : PortId) (b : Pin) (d : Drive)
  /-- `FLT[p][b] <- v`. -/
  | flt (p : PortId) (b : Pin) (v : Bool)
deriving DecidableEq, Repr, Inhabited

/-- The values the reset step draws afresh (10_state.md R46, 70_reset_and_hazards.md R196;
93_implementation_defined.md U8). -/
structure ResetDraws where
  out0 : Byte
  out1 : Byte
  ies0 : Byte
  ies1 : Byte
  clkrange : Byte
  clkdco : Byte
  saved : SavedContext
deriving DecidableEq, Repr, Inhabited

/-- One choice of the scheduler: the step that is to be taken next, with what the spec lets that
step choose. The rows are those of the table of 70_reset_and_hazards.md R213. -/
inductive Choice where
  /-- A sequencer operation (41_control_ops.md R110). `iesDraw` is the draw of step 10 of
  40_register_ops.md R100, read only where `IES_WRITE_MAY_SET_FLAG` is true. -/
  | operation (iesDraw : Byte)
  /-- The acceptance of port `p`'s interrupt (60_exceptions.md R178). -/
  | acceptance (p : PortId)
  /-- A timer tick (43_timer_unit.md R142). -/
  | tick
  /-- An environment step (44_port_pin_and_edge_logic.md R161). -/
  | environment (changes : List PinChange)
  /-- The watchdog's expiry (60_exceptions.md R190), with the draws of the reset it makes. -/
  | watchdogExpiry (d : ResetDraws)
  /-- A power-on reset (70_reset_and_hazards.md R195, R196), with its draws. -/
  | powerOnReset (d : ResetDraws)
deriving DecidableEq, Repr, Inhabited

/-- The parameters of 00_scope.md R5 that the model takes as an argument, beside the content of
`ROM`. They stand in the state and no step changes them (10_state.md R45). -/
structure Params where
  sensorPort : PortId
  sensorBit : Pin
  pwmPort : PortId
  pwmBit : Pin
  calRange : Byte
  calDco : Byte
  /-- "the constants are programmed" (10_state.md R36). -/
  calProgrammed : Bool
  vec0 : Option ProgAddr
  vec1 : Option ProgAddr
  iesWriteMaySetFlag : Bool
deriving DecidableEq, Repr, Inhabited

/-- `VEC[p]`: the handler entry address of port `p`, or none (10_state.md R45, 60_exceptions.md
R179). -/
def Params.vec (c : Params) : PortId → Option ProgAddr
  | .p0 => c.vec0
  | .p1 => c.vec1

/-- The constraint of 00_scope.md R5: the sensor pin and the PWM pin differ. -/
def Params.wf (c : Params) : Bool :=
  !(c.sensorPort == c.pwmPort && c.sensorBit == c.pwmBit)

/-- The defaults of 00_scope.md R5 and 42_reference_program.md R132. DESIGN CHOICE (unsafe, log 6):
the spec gives `CAL_RANGE` and `CAL_DCO` no value; 0x00 is what 42 R131 prints. -/
def Params.default : Params where
  sensorPort := .p0
  sensorBit := 3
  pwmPort := .p0
  pwmBit := 6
  calRange := 0x00
  calDco := 0x00
  calProgrammed := true
  vec0 := some 0x20
  vec1 := none
  iesWriteMaySetFlag := false

/-- `PERIOD_VAL` (00_scope.md R5). -/
def Config.periodVal : Half := 1000

/-- `COMPARE_VAL` (00_scope.md R5). -/
def Config.compareVal : Half := 750

/-- The reset draws that `State.reset` names. DESIGN CHOICE (unsafe, log 5): the spec leaves every
one of these values free; the reset step itself takes whatever draws the scheduler gives. -/
def Config.namedDraws : ResetDraws where
  out0 := 0x00
  out1 := 0x00
  ies0 := 0x00
  ies1 := 0x00
  clkrange := 0x00
  clkdco := 0x00
  saved := ⟨0x00, false, .active⟩

/-- The environment `State.reset` names: nothing driven, floating pins low. DESIGN CHOICE (unsafe,
log 4): 10_state.md R46 leaves `EXT` and `FLT` free; 95_test_vectors.md starts from these. -/
def Config.namedEnv : PinEnv where
  ext := Vector.replicate 8 .Z
  flt := Vector.replicate 8 false

/-- FREE VALUE (log 2): the step that is taken when the state's agenda holds no further choice.
70_reset_and_hazards.md R214: which enabled step is taken is not fixed. It has no body, so nothing
can be proved of it. -/
opaque Config.schedule : Nat → Choice

/-- FREE VALUE (log 21): what the block drives on a pin in role `UNSPEC`, by the number of steps taken
and the pin; `none` would be nothing at all. 44_port_pin_and_edge_logic.md R155, R156: unknown. It has no
body, so nothing can be proved of it. -/
opaque Config.unspecDrive : Nat → PortId → Pin → Option Bool

/-- The reference content of the program store for the default parameters, addresses 0x00 to 0x1F:
the Main Sequencer and the word after it (42_reference_program.md R131). -/
def Config.referenceBoot : List OpWord :=
  [0x1A000080, 0x19000000, 0x19100000, 0x11100000, 0x112000FF, 0x113000FF, 0x11400000, 0x11500000,
   0x11600000, 0x11800000, 0x12100000, 0x122000FF, 0x123000FF, 0x12400000, 0x12500000, 0x12600000,
   0x12800000, 0x31200008, 0x21300008, 0x21100008, 0x21400008, 0x31800008, 0x21700008, 0x21200040,
   0x31300040, 0x21500040, 0x183003E8, 0x184002EE, 0x181000E0, 0x18000210, 0x60000000, 0x500000FF]

/-- The reference content of the program store, addresses 0x20 to 0x27: the Edge Interrupt Handler
(42_reference_program.md R131). -/
def Config.referenceHandler : List OpWord :=
  [0x41030003, 0x31500040, 0x31400008, 0x50000002, 0x21500040, 0x21400008, 0x11800000, 0x70000000]

/-- The default content of `ROM` (00_scope.md R5, 42_reference_program.md R131), word by word from
address 0x00; the addresses after it hold 0x00000000. -/
def Config.referenceWords : List OpWord :=
  Config.referenceBoot ++ Config.referenceHandler

end Sys2Proof
end

