-- ==== Sys2Proof/Machine/Memory.lean ====
section
/-! DEFINITION. The program store `ROM`: 64 words of 32 bits (spec/10_state.md R45,
spec/20_memory.md R60, R71), kept as a list of (address, word) in one canonical form. -/

namespace Sys2Proof.Machine

/-- The program store. Its unit is the 32-bit operation word (20_memory.md R60, R65), so a cell is an
address and a word (log 7). -/
abbrev Memory := List (Nat × OpWord)

/-- What an unlisted address reads as: "the all-zero word 0x00000000, which fills the unprogrammed
part of the program store" (30_encoding.md R90, 42_reference_program.md R131). -/
def unprogrammed : OpWord := 0x00000000

/-- The number of words of the program store (20_memory.md R72). -/
def storeSize : Nat := 64

/-- The word at address `a`. -/
def Memory.read : Memory → Nat → OpWord
  | [], _ => unprogrammed
  | (k, w) :: m, a => if a = k then w else Memory.read m a

/-- The store with the word at `a` removed from the list, that is, unprogrammed. -/
def Memory.erase : Memory → Nat → Memory
  | [], _ => []
  | (k, w) :: m, a => if a = k then m else (k, w) :: Memory.erase m a

/-- The store with `w` listed at address `a`, in its place in the order. -/
def Memory.insert : Memory → Nat → OpWord → Memory
  | [], a, w => [(a, w)]
  | (k, v) :: m, a, w =>
    if a < k then (a, w) :: (k, v) :: m
    else if a = k then (a, w) :: m
    else (k, v) :: Memory.insert m a w

/-- The store after `w` is loaded at address `a` of the program store. No step of the machine does
this (20_memory.md R71): it stands for the loading of a program (70_reset_and_hazards.md R217). An
address outside the store holds nothing and is left out. -/
def Memory.write (m : Memory) (a : Nat) (w : OpWord) : Memory :=
  if storeSize ≤ a then m
  else if w = unprogrammed then Memory.erase m a
  else Memory.insert m a w

/-- The listed addresses rise strictly from above `low`. -/
def Memory.risesFrom : Nat → Memory → Bool
  | _, [] => true
  | low, (k, _) :: m => decide (low ≤ k) && Memory.risesFrom (k + 1) m

/-- The canonical form: addresses strictly rising and inside the store, and no entry equal to what an
unlisted address reads as. -/
def Memory.wf (m : Memory) : Bool :=
  Memory.risesFrom 0 m && m.all (fun c => decide (c.1 < storeSize) && !(c.2 == unprogrammed))

/-- The store that holds `ws` from address `a` on. -/
def Memory.ofWordsFrom : Nat → List OpWord → Memory
  | _, [] => []
  | a, w :: ws => Memory.write (Memory.ofWordsFrom (a + 1) ws) a w

/-- The store that holds `ws` from address 0x00 on. -/
def Memory.ofWords (ws : List OpWord) : Memory :=
  Memory.ofWordsFrom 0 ws

end Sys2Proof.Machine
end

