-- ==== Sys2Proof/Machine/State.lean ====
section
/-! DEFINITION. The state of the switched-PWM block as plain data (spec/10_state.md), its faults
(spec/60_exceptions.md R171) and its reset values (spec/10_state.md R46). -/

namespace Sys2Proof.Machine

/-- The nine faults of 60_exceptions.md R171, with what each records. They are the values of the state
component `FAULT` (10_state.md R42): raising one is a step to a state that holds it, from which a reset
still leads out. The step never answers `Host.Outcome.fault` (log 3). All are safe: "the model stops
there rather than invent one" (60_exceptions.md R170). -/
inductive Fault where
  /-- Code 1. Raised by the sequencer step on an illegal word (41_control_ops.md R110). Safe. -/
  | illegalOp (pc : ProgAddr) (word : OpWord)
  /-- Code 2. Raised by `WR`, `BIS`, `BIC`, `BBS` on an unmapped address (20_memory.md R64). Safe. -/
  | badRegister (reg : RegAddr)
  /-- Code 3. Raised by `WR`, `BIS`, `BIC` on an `IN` register (40_register_ops.md R100). Safe. -/
  | readOnlyWrite (reg : RegAddr)
  /-- Code 4. Raised by `WR`, `BIS`, `BIC` on an immediate above 0xFF for an 8-bit register
  (30_encoding.md R86), by `BBS` on a bit index not below the register's width (R87). Safe. -/
  | operandRange (reg : RegAddr) (operand : Nat)
  /-- Code 5. Raised by `WR`, `BIS`, `BIC` when the result is no legal value of `TCTL`, `TCCTL` or
  `WDT` (10_state.md R34, R35, R37). Safe. -/
  | reservedValue (reg : RegAddr) (value : Half)
  /-- Code 6. Raised by every operation but `RETI` when the next `pc` would lie outside the program
  store (41_control_ops.md R110). Safe. -/
  | pcRange (target : Int)
  /-- Code 7. Raised by `RETI` while `INH` = 0 (41_control_ops.md R114). Safe. -/
  | retiOutsideHandler (pc : ProgAddr)
  /-- Code 8. Raised by `SLEEP` while `INH` = 1 (41_control_ops.md R113). Safe. -/
  | sleepInHandler (pc : ProgAddr)
  /-- Code 9. Raised by the acceptance of a port without a vector (60_exceptions.md R179). Safe. -/
  | noVector (port : PortId)
deriving DecidableEq, Repr, Inhabited

/-- The fault's code in the table of 60_exceptions.md R171. -/
def Fault.code : Fault → Nat
  | .illegalOp _ _ => 1
  | .badRegister _ => 2
  | .readOnlyWrite _ => 3
  | .operandRange _ _ => 4
  | .reservedValue _ _ => 5
  | .pcRange _ => 6
  | .retiOutsideHandler _ => 7
  | .sleepInHandler _ => 8
  | .noVector _ => 9

/-- Why the model would have no answer. No meaning and no step of this model answers with it. -/
inductive Refusal where
  /-- An instruction without a meaning; raised by `exec`'s refused arms, of which there is none. Safe. -/
  | notModelled (mnemonic : String)
deriving DecidableEq, Repr, Inhabited

/-- The stored registers of one Port Register Set (10_state.md R21, R23 to R29). `IN` is no stored
state (R22). -/
structure PortRegs where
  out : Byte
  dir : Byte
  ren : Byte
  ies : Byte
  sel : Byte
  sel2 : Byte
  ie : Byte
  ifg : Byte
deriving DecidableEq, Repr, Inhabited

/-- The whole state: the block's own (10_state.md R21 to R43), the environment's side of the pins
(R44), the parameters (R45), and three fields of the model's own, `iesDraw`, `agenda` and `ticket`. -/
structure State where
  /-- `PORT[0]` (10_state.md R21). -/
  port0 : PortRegs
  /-- `PORT[1]` (10_state.md R21). -/
  port1 : PortRegs
  /-- `TCTL` (10_state.md R34). -/
  tctl : Half
  /-- `TCCTL` (10_state.md R35). -/
  tcctl : Half
  /-- `TCNT` (10_state.md R31). -/
  tcnt : Half
  /-- `TPERIOD` (10_state.md R32). -/
  tperiod : Half
  /-- `TCOMPARE` (10_state.md R33). -/
  tcompare : Half
  /-- `CLKRANGE` (10_state.md R36). -/
  clkrange : Byte
  /-- `CLKDCO` (10_state.md R36). -/
  clkdco : Byte
  /-- `WDT` (10_state.md R37). -/
  wdt : Half
  /-- `WDT_GRACE` (10_state.md R43). -/
  wdtGrace : Bool
  /-- `GIE` (10_state.md R38). -/
  gie : Bool
  /-- `LPM` (10_state.md R39). -/
  lpm : LowPower
  /-- `pc` (10_state.md R40). -/
  pc : ProgAddr
  /-- `INH` (10_state.md R41). -/
  inh : Bool
  /-- `SAVED` (10_state.md R41). -/
  saved : SavedContext
  /-- `FAULT` (10_state.md R42). -/
  fault : Option Fault
  /-- `EXT[0]` and `FLT[0]` (10_state.md R44). -/
  env0 : PinEnv
  /-- `EXT[1]` and `FLT[1]` (10_state.md R44). -/
  env1 : PinEnv
  /-- `ROM` (10_state.md R45). -/
  rom : Memory
  /-- The other parameters (00_scope.md R5, 10_state.md R45). -/
  params : Params
  /-- The model's own: the draw of step 10 of 40_register_ops.md R100 (log 9). -/
  iesDraw : Byte
  /-- The model's own: the choices still to be taken, the first one next (log 1). -/
  agenda : List Choice
  /-- The model's own: the number of steps taken, which the free values of `Config` are applied to (log 2,
  log 21). -/
  ticket : Nat
deriving DecidableEq, Repr, Inhabited

/-- A port's registers in `State.reset`, with the draws of `OUT` and `IES` (10_state.md R46). -/
def PortRegs.atReset (out ies : Byte) : PortRegs where
  out := out
  dir := 0x00
  ren := 0x00
  ies := ies
  sel := 0x00
  sel2 := 0x00
  ie := 0x00
  ifg := 0x00

/-- The machine right after reset (10_state.md R46, 70_reset_and_hazards.md R196, R197), with the
default parameters and the default content of `ROM` (00_scope.md R5). DESIGN CHOICE (unsafe): the drawn
registers hold the named draws (log 5), the environment the named one (log 4); the agenda is empty, so
what happens next is the free schedule (log 2). -/
def State.reset : State where
  port0 := .atReset Config.namedDraws.out0 Config.namedDraws.ies0
  port1 := .atReset Config.namedDraws.out1 Config.namedDraws.ies1
  tctl := 0x0000
  tcctl := 0x0000
  tcnt := 0x0000
  tperiod := 0x0000
  tcompare := 0x0000
  clkrange := Config.namedDraws.clkrange
  clkdco := Config.namedDraws.clkdco
  wdt := 0x0000
  wdtGrace := true
  gie := false
  lpm := .active
  pc := 0x00
  inh := false
  saved := Config.namedDraws.saved
  fault := none
  env0 := Config.namedEnv
  env1 := Config.namedEnv
  rom := Memory.ofWords Config.referenceWords
  params := Params.default
  iesDraw := 0x00
  agenda := []
  ticket := 0

end Sys2Proof.Machine
end

