-- ==== Sys2Proof/Machine/Timer.lean ====
section
/-! DEFINITION. The timer unit: clock gating, counting and the compare output
(spec/43_timer_unit.md). -/

namespace Sys2Proof.Machine

/-- `TCTL` = 0x0210: `SSEL` = `SUBMAIN` and `MC` = `UP` (10_state.md R34). -/
def tctlRunning : Half := 0x0210

/-- A tick is enabled exactly when `TCTL` = 0x0210 (43_timer_unit.md R141). -/
def tickEnabled (s : State) : Bool :=
  s.tctl == tctlRunning

/-- The three output modes of `TCCTL.OUTMOD` (10_state.md R35, 43_timer_unit.md R145). -/
inductive OutputMode where
  /-- Code 0, `OFF`: the output is low. -/
  | off
  /-- Code 3, `SET_RESET`: high from compare match to rollover. -/
  | setReset
  /-- Code 7, `RESET_SET`: high from rollover to compare match. -/
  | resetSet
deriving DecidableEq, Repr, Inhabited

/-- `TCCTL.OUTMOD`, bits 7:5; the other five codes are reserved (10_state.md R35). -/
def outputMode (tcctl : Half) : Option OutputMode :=
  match (tcctl.extractLsb' 5 3).toNat with
  | 0 => some .off
  | 3 => some .setReset
  | 7 => some .resetSet
  | _ => none

/-- The compare output `TOUT` (43_timer_unit.md R146), a function of the timer registers. DESIGN CHOICE
(unsafe, log 10): low under a reserved mode, which no write can store (10_state.md R35). -/
def tout (s : State) : Bool :=
  match outputMode s.tcctl with
  | some .off => false
  | some .setReset => decide (s.tcompare.toNat ≤ s.tcnt.toNat)
  | some .resetSet => decide (s.tcnt.toNat < s.tcompare.toNat)
  | none => false

/-- The tick at this state is a rollover: it takes the `else` arm of 43_timer_unit.md R142 (R143). -/
def rolloverNext (s : State) : Bool :=
  !decide (s.tcnt.toNat + 1 < s.tperiod.toNat)

/-- The counter after one tick: count up to the period, then wrap (43_timer_unit.md R142). -/
def nextCount (s : State) : Half :=
  if s.tcnt.toNat + 1 < s.tperiod.toNat then s.tcnt + 1 else 0

/-- The tick at this state is a compare match: after it `TCNT` = `TCOMPARE` (43_timer_unit.md R144). -/
def compareMatchNext (s : State) : Bool :=
  nextCount s == s.tcompare

end Sys2Proof.Machine
end

