-- ==== Sys2Proof/Machine/Pins.lean ====
section
/-! DEFINITION. Pins: their role, what decides their level, and what `IN` reads
(spec/44_port_pin_and_edge_logic.md section 1). -/

namespace Sys2Proof.Machine

/-- `PORT[p]`. -/
def State.port (s : State) : PortId → PortRegs
  | .p0 => s.port0
  | .p1 => s.port1

/-- The state with the stored registers of port `p` replaced. -/
def State.setPort (s : State) (p : PortId) (r : PortRegs) : State :=
  match p with
  | .p0 => { s with port0 := r }
  | .p1 => { s with port1 := r }

/-- The environment's side of port `p`'s pins. -/
def State.env (s : State) : PortId → PinEnv
  | .p0 => s.env0
  | .p1 => s.env1

/-- The state with the environment's side of port `p`'s pins replaced. -/
def State.setEnv (s : State) (p : PortId) (e : PinEnv) : State :=
  match p with
  | .p0 => { s with env0 := e }
  | .p1 => { s with env1 := e }

/-- The role of a pin (44_port_pin_and_edge_logic.md R155, 10_state.md R27). -/
inductive Role where
  /-- Plain digital I/O. -/
  | gpio
  /-- Driven by the timer's compare output. -/
  | timer
  /-- A function the document does not define. -/
  | unspec
deriving DecidableEq, Repr, Inhabited

/-- Pin `b` of port `p` is the PWM pin (00_scope.md R5). -/
def isPwmPin (s : State) (p : PortId) (b : Pin) : Bool :=
  p == s.params.pwmPort && b == s.params.pwmBit

/-- `role(p, b)`, decided by the Function-Select bits alone (44_port_pin_and_edge_logic.md R155). -/
def role (s : State) (p : PortId) (b : Pin) : Role :=
  if (s.port p).sel2.getLsbD b then .unspec
  else if !(s.port p).sel.getLsbD b then .gpio
  else if isPwmPin s p b then .timer
  else .unspec

/-- `is_digital_input(p, b)`: plain I/O with Direction 0 (44_port_pin_and_edge_logic.md R155). -/
def isDigitalInput (s : State) (p : PortId) (b : Pin) : Bool :=
  role s p b == .gpio && !(s.port p).dir.getLsbD b

/-- The level of a digital input: what drives it from outside, else the pull resistor toward `OUT[b]`,
else the floating level (44_port_pin_and_edge_logic.md R157, R158). -/
def inputLevel (s : State) (p : PortId) (b : Pin) : Bool :=
  match (s.env p).ext.get b with
  | .H => true
  | .L => false
  | .Z => if (s.port p).ren.getLsbD b then (s.port p).out.getLsbD b else (s.env p).flt.get b

/-- `level(p, b)` (44_port_pin_and_edge_logic.md R158). An `UNSPEC` pin has the level the environment
gives it, whatever it drives (R155). -/
def level (s : State) (p : PortId) (b : Pin) : Bool :=
  match role s p b with
  | .timer => tout s
  | .gpio => if (s.port p).dir.getLsbD b then (s.port p).out.getLsbD b else inputLevel s p b
  | .unspec => (s.env p).flt.get b

/-- The value of `PORT[p].IN`: bit `b` is `level(p, b)` (10_state.md R22, 44 R159). -/
def inputByte (s : State) (p : PortId) : Byte :=
  ofPins (level s p)

/-- What the outside sees on the PWM pin (44_port_pin_and_edge_logic.md R160). -/
def pwmPinLevel (s : State) : Bool :=
  level s s.params.pwmPort s.params.pwmBit

/-- What the block itself drives on a pin, `none` where it drives nothing (44_port_pin_and_edge_logic.md
R156). On an `UNSPEC` pin the drive is unknown: a free value, fresh at every step (log 21). -/
def blockDrive (s : State) (p : PortId) (b : Pin) : Option Bool :=
  match role s p b with
  | .timer => some (tout s)
  | .gpio => if (s.port p).dir.getLsbD b then some ((s.port p).out.getLsbD b) else none
  | .unspec => Config.unspecDrive s.ticket p b

end Sys2Proof.Machine
end

