-- ==== Sys2Proof/Machine/Operands.lean ====
section
/-! DEFINITION. Operands: the register address map and its reads and writes (spec/20_memory.md R61 to
R65), the immediate (spec/30_encoding.md R86) and the branch target (R88). -/

namespace Sys2Proof.Machine

/-- The registers of the register space (20_memory.md R61). -/
inductive Reg where
  /-- `PORT[p].IN` -/
  | portIn (p : PortId)
  /-- `PORT[p].OUT` -/
  | portOut (p : PortId)
  /-- `PORT[p].DIR` -/
  | portDir (p : PortId)
  /-- `PORT[p].REN` -/
  | portRen (p : PortId)
  /-- `PORT[p].IES` -/
  | portIes (p : PortId)
  /-- `PORT[p].SEL` -/
  | portSel (p : PortId)
  /-- `PORT[p].SEL2` -/
  | portSel2 (p : PortId)
  /-- `PORT[p].IE` -/
  | portIe (p : PortId)
  /-- `PORT[p].IFG` -/
  | portIfg (p : PortId)
  /-- `TCTL` -/
  | tctl
  /-- `TCCTL` -/
  | tcctl
  /-- `TCNT` -/
  | tcnt
  /-- `TPERIOD` -/
  | tperiod
  /-- `TCOMPARE` -/
  | tcompare
  /-- `CLKRANGE` -/
  | clkrange
  /-- `CLKDCO` -/
  | clkdco
  /-- `WDT` -/
  | wdt
deriving DecidableEq, Repr, Inhabited

/-- The register `PB(p) + k` of port `p`, `k` from 0 to 8 (20_memory.md R61). -/
def portRegAt (p : PortId) : Nat → Option Reg
  | 0 => some (.portIn p)
  | 1 => some (.portOut p)
  | 2 => some (.portDir p)
  | 3 => some (.portRen p)
  | 4 => some (.portIes p)
  | 5 => some (.portSel p)
  | 6 => some (.portSel2 p)
  | 7 => some (.portIe p)
  | 8 => some (.portIfg p)
  | _ => none

/-- The timer, clock and watchdog registers by address (20_memory.md R61). -/
def deviceRegAt : Nat → Option Reg
  | 0x80 => some .tctl
  | 0x81 => some .tcctl
  | 0x82 => some .tcnt
  | 0x83 => some .tperiod
  | 0x84 => some .tcompare
  | 0x90 => some .clkrange
  | 0x91 => some .clkdco
  | 0xA0 => some .wdt
  | _ => none

/-- The register at a register address, `none` where the address is unmapped (20_memory.md R61): the
ports at `PB(0)` = 0x10 and `PB(1)` = 0x20. -/
def regAt (a : RegAddr) : Option Reg :=
  if a.toNat < 0x10 then none
  else if a.toNat < 0x20 then portRegAt .p0 (a.toNat - 0x10)
  else if a.toNat < 0x30 then portRegAt .p1 (a.toNat - 0x20)
  else deviceRegAt a.toNat

/-- `addr(R)`: the address of a register in the table of 20_memory.md R61, `PB(p)` = 0x10 + 0x10 * `p`
(30_encoding.md R92). -/
def Reg.addr : Reg → RegAddr
  | .portIn p => BitVec.ofNat 8 (0x10 + 0x10 * p.num + 0)
  | .portOut p => BitVec.ofNat 8 (0x10 + 0x10 * p.num + 1)
  | .portDir p => BitVec.ofNat 8 (0x10 + 0x10 * p.num + 2)
  | .portRen p => BitVec.ofNat 8 (0x10 + 0x10 * p.num + 3)
  | .portIes p => BitVec.ofNat 8 (0x10 + 0x10 * p.num + 4)
  | .portSel p => BitVec.ofNat 8 (0x10 + 0x10 * p.num + 5)
  | .portSel2 p => BitVec.ofNat 8 (0x10 + 0x10 * p.num + 6)
  | .portIe p => BitVec.ofNat 8 (0x10 + 0x10 * p.num + 7)
  | .portIfg p => BitVec.ofNat 8 (0x10 + 0x10 * p.num + 8)
  | .tctl => 0x80
  | .tcctl => 0x81
  | .tcnt => 0x82
  | .tperiod => 0x83
  | .tcompare => 0x84
  | .clkrange => 0x90
  | .clkdco => 0x91
  | .wdt => 0xA0

/-- `W(a)`: the width of a register in bits (20_memory.md R61). -/
def Reg.width : Reg → Nat
  | .portIn _ | .portOut _ | .portDir _ | .portRen _ | .portIes _ | .portSel _ | .portSel2 _
  | .portIe _ | .portIfg _ | .clkrange | .clkdco => 8
  | .tctl | .tcctl | .tcnt | .tperiod | .tcompare | .wdt => 16

/-- The register is an `IN`, the one read-only kind (20_memory.md R61). -/
def Reg.readOnly : Reg → Bool
  | .portIn _ => true
  | _ => false

/-- The current value of a register (20_memory.md R62), an 8-bit value extended with zeros. Reading
changes nothing (R68). -/
def readReg (s : State) : Reg → Half
  | .portIn p => (inputByte s p).setWidth 16
  | .portOut p => (s.port p).out.setWidth 16
  | .portDir p => (s.port p).dir.setWidth 16
  | .portRen p => (s.port p).ren.setWidth 16
  | .portIes p => (s.port p).ies.setWidth 16
  | .portSel p => (s.port p).sel.setWidth 16
  | .portSel2 p => (s.port p).sel2.setWidth 16
  | .portIe p => (s.port p).ie.setWidth 16
  | .portIfg p => (s.port p).ifg.setWidth 16
  | .tctl => s.tctl
  | .tcctl => s.tcctl
  | .tcnt => s.tcnt
  | .tperiod => s.tperiod
  | .tcompare => s.tcompare
  | .clkrange => s.clkrange.setWidth 16
  | .clkdco => s.clkdco.setWidth 16
  | .wdt => s.wdt

/-- The state with a register's stored value replaced, step 8 of 40_register_ops.md R100; `v` is cut to
the register's width. An `IN` holds nothing: a write to it faults before this (R100, check 2). -/
def writeReg (s : State) (r : Reg) (v : Half) : State :=
  match r with
  | .portIn _ => s
  | .portOut p => s.setPort p { s.port p with out := v.setWidth 8 }
  | .portDir p => s.setPort p { s.port p with dir := v.setWidth 8 }
  | .portRen p => s.setPort p { s.port p with ren := v.setWidth 8 }
  | .portIes p => s.setPort p { s.port p with ies := v.setWidth 8 }
  | .portSel p => s.setPort p { s.port p with sel := v.setWidth 8 }
  | .portSel2 p => s.setPort p { s.port p with sel2 := v.setWidth 8 }
  | .portIe p => s.setPort p { s.port p with ie := v.setWidth 8 }
  | .portIfg p => s.setPort p { s.port p with ifg := v.setWidth 8 }
  | .tctl => { s with tctl := v }
  | .tcctl => { s with tcctl := v }
  | .tcnt => { s with tcnt := v }
  | .tperiod => { s with tperiod := v }
  | .tcompare => { s with tcompare := v }
  | .clkrange => { s with clkrange := v.setWidth 8 }
  | .clkdco => { s with clkdco := v.setWidth 8 }
  | .wdt => { s with wdt := v }

/-- The value is a legal one for the register: `TCTL`, `TCCTL` and `WDT` take the values of 10_state.md
R34, R35 and R37, every other register every value of its width. -/
def legalValue (r : Reg) (v : Half) : Bool :=
  match r with
  | .tctl => v == 0x0000 || v == 0x0200 || v == 0x0210
  | .tcctl => v == 0x0000 || v == 0x0060 || v == 0x00E0
  | .wdt => v == 0x0000 || v == 0x0080
  | _ => true

/-- The immediate fits the register: an 8-bit register needs `imm16[15:8]` = 0 (30_encoding.md R86). -/
def immediateFits (r : Reg) (k : Half) : Bool :=
  r.width == 16 || k.toNat < 0x100

/-- The target `pc + 1 + off` in the integers, `pc` the address of the branch (30_encoding.md R88). -/
def branchTarget (s : State) (off : Int) : Int :=
  (s.pc.toNat : Int) + 1 + off

/-- A program-store address (20_memory.md R72). -/
def inProgramStore (t : Int) : Bool :=
  decide (0 ≤ t) && decide (t ≤ 0x3F)

end Sys2Proof.Machine
end

