-- ==== Sys2Proof/Machine/Flags.lean ====
section
/-! DEFINITION. The interrupt flags: edges, the latch, and the request
(spec/44_port_pin_and_edge_logic.md section 2). The block has no condition codes
(spec/60_exceptions.md R172). -/

namespace Sys2Proof.Machine

/-- Between `s0` and `s1` pin `(p, b)` makes a rising edge (44_port_pin_and_edge_logic.md R162). -/
def risingEdge (s0 s1 : State) (p : PortId) (b : Pin) : Bool :=
  !level s0 p b && level s1 p b

/-- Between `s0` and `s1` pin `(p, b)` makes a falling edge (44_port_pin_and_edge_logic.md R162). -/
def fallingEdge (s0 s1 : State) (p : PortId) (b : Pin) : Bool :=
  level s0 p b && !level s1 p b

/-- The edge of pin `(p, b)` between `s0` and `s1` is in the direction that `IES[b]` of `s1` arms: 0
rising, 1 falling (44_port_pin_and_edge_logic.md R163, 10_state.md R26). -/
def armedEdge (s0 s1 : State) (p : PortId) (b : Pin) : Bool :=
  if (s1.port p).ies.getLsbD b then fallingEdge s0 s1 p b else risingEdge s0 s1 p b

/-- The step from `s0` to `s1` latches the flag of pin `(p, b)`: an armed edge on a pin that is a digital
input both before and after (44_port_pin_and_edge_logic.md R163, R168). -/
def latches (s0 s1 : State) (p : PortId) (b : Pin) : Bool :=
  isDigitalInput s0 p b && isDigitalInput s1 p b && armedEdge s0 s1 p b

/-- The flags that the step from `s0` to `s1` latches in port `p`. -/
def latchedFlags (s0 s1 : State) (p : PortId) : Byte :=
  ofPins (latches s0 s1 p)

/-- The state with the bits of `m` set in `PORT[p].IFG`. -/
def setFlags (s : State) (p : PortId) (m : Byte) : State :=
  s.setPort p { s.port p with ifg := (s.port p).ifg ||| m }

/-- Edge evaluation (44_port_pin_and_edge_logic.md R163): `s0` is the state before the step's change,
which gives `lv0` and `in0`; `s1` the state after it. Hardware only sets flags (R164). -/
def edgeEval (s0 s1 : State) : State :=
  setFlags (setFlags s1 .p0 (latchedFlags s0 s1 .p0)) .p1 (latchedFlags s0 s1 .p1)

/-- Step 10 of 40_register_ops.md R100: where `IES_WRITE_MAY_SET_FLAG` is true, a write to an `IES` may
set the flag of every bit it changes; which of them it sets is the free value `iesDraw`
(44_port_pin_and_edge_logic.md R167, log 9). -/
def iesSideEffect (r : Reg) (old new : Half) (s : State) : State :=
  match r with
  | .portIes p =>
    if s.params.iesWriteMaySetFlag then
      setFlags s p ((old.setWidth 8 ^^^ new.setWidth 8) &&& s.iesDraw)
    else s
  | _ => s

/-- Port `p` requests an interrupt: some pin has its flag latched and its enable bit set
(44_port_pin_and_edge_logic.md R166, 60_exceptions.md R175). -/
def requests (s : State) (p : PortId) : Bool :=
  (s.port p).ifg &&& (s.port p).ie != 0

end Sys2Proof.Machine
end

