-- ==== Sys2Proof/Machine/Ops.lean ====
section
/-! DEFINITION. The shared operations: raising a fault, the common write path, moving `pc`, taking an
interrupt and returning from one, reset, the tick and the environment step. -/

namespace Sys2Proof.Machine

open Host (Outcome)

/-- The state with `FAULT` set to `f` (60_exceptions.md R170). -/
def withFault (f : Fault) (s : State) : State :=
  { s with fault := some f }

/-- The state with `pc` at `a`. -/
def withPc (a : ProgAddr) (s : State) : State :=
  { s with pc := a }

/-- The state with the operation's Edge-Select draw stored (log 9). -/
def withIesDraw (d : Byte) (s : State) : State :=
  { s with iesDraw := d }

/-- `raise X(info)`: set `FAULT` and change nothing else (60_exceptions.md R170). -/
def raise (f : Fault) (s : State) : Outcome State Fault Refusal :=
  .next (withFault f s)

/-- `pc` is 0x3F, the last address of the program store: no operation can advance from it
(41_control_ops.md R110). -/
def atLastAddress (s : State) : Bool :=
  s.pc == 0x3F

/-- `pc <- pc + 1` (41_control_ops.md R110). -/
def advancePc (s : State) : State :=
  withPc (s.pc + 1) s

/-- Move `pc` to the integer target `t`, or fault when it lies outside the program store
(41_control_ops.md R111, R112). -/
def jumpTo (t : Int) (s : State) : Outcome State Fault Refusal :=
  if inProgramStore t then .next (withPc (BitVec.ofInt 6 t) s) else raise (.pcRange t) s

/-- Steps 7 to 11 of 40_register_ops.md R100: write the register, evaluate the edges against the state
before, take the Edge-Select side effect, advance `pc`. -/
def commitWrite (r : Reg) (new : Half) (s : State) : State :=
  advancePc (iesSideEffect r (readReg s r) new (edgeEval s (writeReg s r new)))

/-- The common write path of 40_register_ops.md R100 for the new value `f old k`: its checks in their
order, then the write. -/
def writePath (a : RegAddr) (k : Half) (f : Half → Half → Half) (s : State) :
    Outcome State Fault Refusal :=
  match regAt a with
  | none => raise (.badRegister a) s
  | some r =>
    if r.readOnly then raise (.readOnlyWrite a) s
    else if !immediateFits r k then raise (.operandRange a k.toNat) s
    else if !legalValue r (f (readReg s r) k) then raise (.reservedValue a (f (readReg s r) k)) s
    else if atLastAddress s then raise (.pcRange 0x40) s
    else .next (commitWrite r (f (readReg s r) k) s)

/-- The new value of `WR` (40_register_ops.md R100, R101). -/
def writeValue (_old k : Half) : Half := k

/-- The new value of `BIS` (40_register_ops.md R100, R102). -/
def setBits (old k : Half) : Half := old ||| k

/-- The new value of `BIC` (40_register_ops.md R100, R103). -/
def clearBits (old k : Half) : Half := old &&& ~~~k

/-- Taking the interrupt of port `p` (60_exceptions.md R178): save `pc`, `GIE` and `LPM`, mask, wake,
enter the handler context at the port's vector; without a vector, fault. `IFG`, `IE`, the timer and the
pins are untouched (R183). -/
def acceptInterrupt (p : PortId) (s : State) : State :=
  match s.params.vec p with
  | none => withFault (.noVector p) s
  | some v =>
    { s with
      saved := ⟨s.pc, s.gie, s.lpm⟩
      gie := false
      lpm := .active
      inh := true
      pc := v }

/-- Returning from the handler (41_control_ops.md R114, 60_exceptions.md R181): restore what acceptance
saved and leave the handler context. -/
def returnFromHandler (s : State) : State :=
  { s with
    pc := s.saved.pc
    gie := s.saved.gie
    lpm := s.saved.lpm
    inh := false }

/-- A port's registers after the reset step (10_state.md R46). -/
def resetPort (out ies : Byte) : PortRegs where
  out := out
  dir := 0x00
  ren := 0x00
  ies := ies
  sel := 0x00
  sel2 := 0x00
  ie := 0x00
  ifg := 0x00

/-- The reset step of 70_reset_and_hazards.md R196: every component of the block takes its reset value
of 10_state.md R46, the drawn ones from `d`. `ROM`, `VEC` and the other parameters, the environment and
the model's own fields stay. No edge evaluation is part of it. -/
def resetStep (d : ResetDraws) (s : State) : State :=
  { s with
    port0 := resetPort d.out0 d.ies0
    port1 := resetPort d.out1 d.ies1
    tctl := 0x0000
    tcctl := 0x0000
    tcnt := 0x0000
    tperiod := 0x0000
    tcompare := 0x0000
    clkrange := d.clkrange
    clkdco := d.clkdco
    wdt := 0x0000
    wdtGrace := true
    gie := false
    lpm := .active
    pc := 0x00
    inh := false
    saved := d.saved
    fault := none }

/-- The timer tick (43_timer_unit.md R142): count, then evaluate edges. -/
def timerTick (s : State) : State :=
  edgeEval s { s with tcnt := nextCount s }

/-- One change of the environment's side of a pin (10_state.md R44). -/
def applyChange (s : State) : PinChange → State
  | .ext p b d => s.setEnv p { s.env p with ext := (s.env p).ext.set b d }
  | .flt p b v => s.setEnv p { s.env p with flt := (s.env p).flt.set b v }

/-- All the changes of one environment step, in the order they are listed (log 18). -/
def applyChanges (changes : List PinChange) (s : State) : State :=
  changes.foldl applyChange s

/-- The environment step (44_port_pin_and_edge_logic.md R161): all changes at once, then one edge
evaluation. -/
def environmentStep (changes : List PinChange) (s : State) : State :=
  edgeEval s (applyChanges changes s)

/-- `WDT.HOLD`, bit 7 (10_state.md R37). -/
def watchdogHeld (s : State) : Bool :=
  s.wdt.getLsbD 7

/-- The end of an operation: if its rule raised no fault, `WDT_GRACE <- 0` (41_control_ops.md R110). -/
def completeOperation (s : State) : State :=
  if s.fault.isNone then { s with wdtGrace := false } else s

/-- The predicate `clk_calibrated` (10_state.md R36). It has no effect on any step (60_exceptions.md
R191). -/
def clkCalibrated (s : State) : Bool :=
  s.clkrange == s.params.calRange && s.clkdco == s.params.calDco && s.params.calProgrammed

end Sys2Proof.Machine
end

