-- ==== Sys2Proof/Machine/ControlOps.lean ====
section
/-! DEFINITION. The control operations `BBS`, `BR`, `SLEEP` and `RETI` (spec/41_control_ops.md). -/

namespace Sys2Proof.Machine

open Host (Outcome)

/-- `BBS reg, #bit, target` (41_control_ops.md R111). -/
def execBbs (reg : RegAddr) (bit : Nat) (off : Int) (s : State) : Outcome State Fault Refusal :=
  match regAt reg with
  | none => raise (.badRegister reg) s
  | some r =>
    if r.width ≤ bit then raise (.operandRange reg bit) s
    else if (readReg s r).getLsbD bit then jumpTo (branchTarget s off) s
    else jumpTo (branchTarget s 0) s

/-- `BR target` (41_control_ops.md R112). -/
def execBr (off : Int) (s : State) : Outcome State Fault Refusal :=
  jumpTo (branchTarget s off) s

/-- `SLEEP` (41_control_ops.md R113). -/
def execSleep (s : State) : Outcome State Fault Refusal :=
  if s.inh then raise (.sleepInHandler s.pc) s
  else if atLastAddress s then raise (.pcRange 0x40) s
  else .next (advancePc { s with gie := true, lpm := .wait })

/-- `RETI` (41_control_ops.md R114). -/
def execReti (s : State) : Outcome State Fault Refusal :=
  if !s.inh then raise (.retiOutsideHandler s.pc) s
  else .next (returnFromHandler s)

end Sys2Proof.Machine
end

