-- ==== Sys2Proof/Machine/RegisterOps.lean ====
section
/-! DEFINITION. The register operations `WR`, `BIS` and `BIC` (spec/40_register_ops.md). -/

namespace Sys2Proof.Machine

open Host (Outcome)

/-- `WR reg, #imm16` (40_register_ops.md R101). -/
def execWr (reg : RegAddr) (imm : Half) (s : State) : Outcome State Fault Refusal :=
  writePath reg imm writeValue s

/-- `BIS reg, #imm16` (40_register_ops.md R102). -/
def execBis (reg : RegAddr) (imm : Half) (s : State) : Outcome State Fault Refusal :=
  writePath reg imm setBits s

/-- `BIC reg, #imm16` (40_register_ops.md R103). -/
def execBic (reg : RegAddr) (imm : Half) (s : State) : Outcome State Fault Refusal :=
  writePath reg imm clearBits s

end Sys2Proof.Machine
end

