-- ==== Sys2Proof/Machine/Dispatch.lean ====
section
/-! DEFINITION. One arm per operation of spec/opcode_table.json: the execution of a decoded operation
(spec/41_control_ops.md R110). -/

namespace Sys2Proof.Machine

open Host (Outcome)

def exec (i : Instr) (s : State) : Host.Outcome State Fault Refusal :=
  match i with
  | .wr reg imm => Sys2Proof.Machine.execWr reg imm s
  | .bis reg imm => Sys2Proof.Machine.execBis reg imm s
  | .bic reg imm => Sys2Proof.Machine.execBic reg imm s
  | .bbs reg bit off => Sys2Proof.Machine.execBbs reg bit off s
  | .br off => Sys2Proof.Machine.execBr off s
  | .sleep => Sys2Proof.Machine.execSleep s
  | .reti => Sys2Proof.Machine.execReti s

end Sys2Proof.Machine
end

