-- ==== Sys2Proof/Machine/Sequencer.lean ====
section
/-! DEFINITION. The sequencer's operation step: fetch, decode, execute (spec/41_control_ops.md R110). -/

namespace Sys2Proof.Machine

open Host (Outcome)

/-- `ROM[pc]` (41_control_ops.md R110). -/
def fetch (s : State) : OpWord :=
  Memory.read s.rom s.pc.toNat

/-- A sequencer operation is enabled when `FAULT` = none and `LPM` = `ACTIVE` (41_control_ops.md R110,
70_reset_and_hazards.md R213). -/
def operationEnabled (s : State) : Bool :=
  s.fault.isNone && s.lpm == .active

/-- The end of an operation, on the answer its rule gave (41_control_ops.md R110). -/
def finish : Outcome State Fault Refusal → Outcome State Fault Refusal
  | .next t => .next (completeOperation t)
  | .fault f => .fault f
  | .refused r => .refused r

/-- `SequencerStep` of 41_control_ops.md R110. -/
def operationStep (s : State) : Outcome State Fault Refusal :=
  match decode (fetch s) with
  | .error _ => raise (.illegalOp s.pc (fetch s)) s
  | .ok i => finish (exec i s)

end Sys2Proof.Machine
end

