-- ==== Sys2Proof/Machine/Agents.lean ====
section
/-! DEFINITION. The agents' steps, when each is enabled, and how one of them is chosen
(spec/70_reset_and_hazards.md R213, R214). -/

namespace Sys2Proof.Machine

open Host (Outcome)

/-- Acceptance of port `p` is enabled when `FAULT` = none, `GIE` = 1 and the port requests
(60_exceptions.md R177). -/
def acceptanceEnabled (p : PortId) (s : State) : Bool :=
  s.fault.isNone && s.gie && requests s p

/-- Watchdog expiry is enabled when `WDT.HOLD` = 0 and `WDT_GRACE` = 0 (60_exceptions.md R190). -/
def expiryEnabled (s : State) : Bool :=
  !watchdogHeld s && !s.wdtGrace

/-- When each step is enabled: the table of 70_reset_and_hazards.md R213. -/
def enabled (c : Choice) (s : State) : Bool :=
  match c with
  | .operation _ => operationEnabled s
  | .acceptance p => acceptanceEnabled p s
  | .tick => tickEnabled s
  | .environment _ => true
  | .watchdogExpiry _ => expiryEnabled s
  | .powerOnReset _ => true

/-- What a chosen step does where it is enabled (70_reset_and_hazards.md R213). -/
def perform (c : Choice) (s : State) : Outcome State Fault Refusal :=
  match c with
  | .operation d => operationStep (withIesDraw d s)
  | .acceptance p => .next (acceptInterrupt p s)
  | .tick => .next (timerTick s)
  | .environment changes => .next (environmentStep changes s)
  | .watchdogExpiry d => .next (resetStep d s)
  | .powerOnReset d => .next (resetStep d s)

/-- The step of a choice. A choice that is not enabled is taken as the environment step that changes
nothing, which is always enabled (44_port_pin_and_edge_logic.md R161, log 1). -/
def takeChoice (c : Choice) (s : State) : Outcome State Fault Refusal :=
  if enabled c s then perform c s else .next s

/-- The choice that is next: the head of the agenda, and the free schedule where the agenda is empty
(70_reset_and_hazards.md R214, log 1 and log 2). -/
def nextChoice (s : State) : Choice :=
  match s.agenda with
  | c :: _ => c
  | [] => Config.schedule s.ticket

/-- The state with its ticket used up: every step takes a fresh one (log 2, log 21). -/
def useTicket (s : State) : State :=
  { s with ticket := s.ticket + 1 }

/-- The state with its next choice and its ticket used up. -/
def dropChoice (s : State) : State :=
  { useTicket s with agenda := s.agenda.tail }

end Sys2Proof.Machine
end

