-- ==== Sys2Proof/Machine/Step.lean ====
section
/-! DEFINITION. One step of the machine (spec/00_scope.md R8), and where it fetches its next operation. -/

namespace Sys2Proof.Machine

open Host (Outcome)

/-- One step of the whole machine: the step of the next choice (00_scope.md R8,
70_reset_and_hazards.md R214). -/
def step (s : State) : Outcome State Fault Refusal :=
  takeChoice (nextChoice s) (dropChoice s)

/-- The state with the operation word `w` stored at `ROM[pc]` and the sequencer's operation as the very
next step: it puts that choice at the head of the agenda (with the Edge-Select draw the state holds),
and lets the sequencer run, which needs `FAULT` = none and `LPM` = `ACTIVE` (41_control_ops.md R110,
log 8). -/
def State.withFetchWord (s : State) (nbits w : Nat) : State :=
  { s with
    rom := Memory.write s.rom s.pc.toNat (BitVec.ofNat 32 (w % 2 ^ nbits))
    lpm := .active
    fault := none
    agenda := .operation s.iesDraw :: s.agenda }

end Sys2Proof.Machine
end

