-- ==== Sys2Proof/Safety.lean ====
section
/-! DEFINITION. The terms in which claims about the machine are stated: the idle state, the invariants,
what a step leaves unchanged, runs under a list of choices, and fairness. -/

namespace Sys2Proof.Safety

open Sys2Proof.Machine

/-- The idle state of 70_reset_and_hazards.md R216: `FAULT` = none, `LPM` = `WAIT`, `GIE` = 1,
`INH` = 0. -/
abbrev Idle (s : State) : Prop :=
  s.fault = none ∧ s.lpm = .wait ∧ s.gie = true ∧ s.inh = false

/-- An idle state in which no port requests (70_reset_and_hazards.md R216). -/
abbrev Quiescent (s : State) : Prop :=
  Idle s ∧ requests s .p0 = false ∧ requests s .p1 = false

/-- The mode invariant: `GIE` = 1 exactly in the state `WAIT`, the handler context runs masked and
awake, and what it will restore is the wait with interrupts enabled (41_control_ops.md R110, R114,
60_exceptions.md R177, R180). -/
abbrev ModeInv (s : State) : Prop :=
  (s.gie = true ↔ s.lpm = .wait) ∧
    (s.inh = true → s.gie = false ∧ s.saved.gie = true ∧ s.saved.lpm = .wait)

/-- `TCTL`, `TCCTL` and `WDT` hold legal values (10_state.md R34, R35, R37). -/
abbrev LegalInv (s : State) : Prop :=
  legalValue .tctl s.tctl = true ∧ legalValue .tcctl s.tcctl = true ∧ legalValue .wdt s.wdt = true

/-- The invariant of the machine: legal modes, legal register values, the program store in its canonical
form, and the parameters' constraint (00_scope.md R5). -/
abbrev BlockInv (s : State) : Prop :=
  ModeInv s ∧ LegalInv s ∧ Memory.wf s.rom = true ∧ s.params.wf = true

/-- What no operation changes: the environment, the program store, the parameters, and the model's own
fields (10_state.md R44, R45). -/
structure OutsideUnchanged (s t : State) : Prop where
  env0 : t.env0 = s.env0
  env1 : t.env1 = s.env1
  rom : t.rom = s.rom
  params : t.params = s.params
  iesDraw : t.iesDraw = s.iesDraw
  agenda : t.agenda = s.agenda
  ticket : t.ticket = s.ticket

/-- The processor status and the saved context are unchanged (10_state.md R38, R39, R41, R42, R43). -/
structure StatusUnchanged (s t : State) : Prop where
  gie : t.gie = s.gie
  lpm : t.lpm = s.lpm
  inh : t.inh = s.inh
  saved : t.saved = s.saved
  fault : t.fault = s.fault
  wdtGrace : t.wdtGrace = s.wdtGrace

/-- The write of `new` to register `r` may have set the flag of pin `(p, b)` as a side effect of
changing its Edge-Select bit (44_port_pin_and_edge_logic.md R167): the draw says whether it did. -/
abbrev EdgeSelectDraw (s : State) (r : Reg) (new : Half) (p : PortId) (b : Pin) : Prop :=
  s.params.iesWriteMaySetFlag = true ∧ r = .portIes p ∧
    (s.port p).ies.getLsbD b ≠ new.getLsbD b ∧ s.iesDraw.getLsbD b = true

/-- A register write that completed (40_register_ops.md R100): register `r` reads `new`, `pc` is one
further, every other stored register but the flags reads as before, every flag bit of a register not
written is 1 exactly if it was 1 or the write latched it, and nothing else has changed. -/
structure RegisterWritten (s : State) (r : Reg) (new : Half) (t : State) : Prop where
  value : readReg t r = new
  pc : t.pc = s.pc + 1
  others : ∀ r' : Reg, r' ≠ r → r'.readOnly = false → (∀ p, r' ≠ .portIfg p) →
    readReg t r' = readReg s r'
  flags : ∀ (p : PortId) (b : Pin), r ≠ .portIfg p →
    ((t.port p).ifg.getLsbD b = true ↔
      (s.port p).ifg.getLsbD b = true ∨ latches s (writeReg s r new) p b = true ∨
        EdgeSelectDraw s r new p b)
  status : StatusUnchanged s t
  outside : OutsideUnchanged s t

/-- The machine after the choices of a list are taken one by one, each with a fresh ticket, stopping where
a step does. -/
def takeAll : List Choice → State → Host.Outcome State Fault Refusal
  | [], s => .next s
  | c :: cs, s =>
    match takeChoice c (useTicket s) with
    | .next t => takeAll cs t
    | .fault f => .fault f
    | .refused r => .refused r

/-- The state after `n` ticks. -/
def ticks : Nat → State → State
  | 0, s => s
  | n + 1, s => timerTick (ticks n s)

/-- How many of the `n` tick intervals that begin at `s` have `TOUT` = 1. -/
def highIntervals (n : Nat) (s : State) : Nat :=
  (List.range n).countP (fun k => tout (ticks k s))

/-- A reset state (10_state.md R46, 70_reset_and_hazards.md R196): every component of the block at its
reset value, the drawn ones at any draw, whatever the environment, the program store, the parameters
(within their constraint, 00_scope.md R5) and the model's own fields hold. -/
def IsResetState (s : State) : Prop :=
  (∃ d, s = resetStep d s) ∧ Memory.wf s.rom = true ∧ s.params.wf = true

/-- An infinite run of the machine under a choice for every step (70_reset_and_hazards.md R214): the first
state is a reset state, and each next state is got by one enabled step, that of its choice. -/
structure IsRun (choices : Nat → Choice) (run : Nat → State) : Prop where
  first : IsResetState (run 0)
  enabled : ∀ n, Machine.enabled (choices n) (run n) = true
  next : ∀ n, perform (choices n) (useTicket (run n)) = .next (run (n + 1))

/-- Weak fairness of 70_reset_and_hazards.md R214 for one kind of step: if from some point on it is
enabled for ever, it is taken after that point. -/
def FairFor (kind : Choice → Bool) (choices : Nat → Choice) (run : Nat → State) : Prop :=
  ∀ n, (∀ m, n ≤ m → ∃ c, kind c = true ∧ enabled c (run m) = true) →
    ∃ m, n ≤ m ∧ kind (choices m) = true

/-- A run under the scheduling assumption of 70_reset_and_hazards.md R214: weak fairness for an
operation, for the acceptance of each port, and for a tick; none for the environment or the watchdog. -/
def WeaklyFair (choices : Nat → Choice) (run : Nat → State) : Prop :=
  FairFor (fun c => match c with | .operation _ => true | _ => false) choices run ∧
    (∀ p, FairFor (fun c => c == .acceptance p) choices run) ∧
      FairFor (fun c => c == .tick) choices run

end Sys2Proof.Safety
end

