-- ==== Sys2Proof/Certificates/Slice0/Obligations.lean ====
section
/-! DEFINITION. The statements about the switched-PWM block that are to be proved. Each docstring names
the rule of spec/ it comes from. `log n` is notes/assumptions/n.md. -/

open Sys2Proof Sys2Proof.Machine Sys2Proof.Safety
open Host (Outcome)

/-! ### Encoding -/

/-- 30_encoding.md section 3 (R91): `decode(encode(o)) = o` for every well-formed operation, with every
field at every value its encoding admits. -/
def Obligations.DecodeOfEncodeIsTheOperation : Prop :=
  ∀ i : Instr, i.wf = true → decode (encode i) = .ok i

/-- 30_encoding.md section 3: a word that decodes is the encoding of what it decodes to, which is well
formed, so no two words spell one operation. -/
def Obligations.EncodeOfDecodeIsTheWord : Prop :=
  ∀ (w : OpWord) (i : Instr), decode w = .ok i → i.wf = true ∧ encode i = w

/-- 30_encoding.md R91, last sentence: a word spells an operation of a row exactly when
`w & mask = match` for the row's values. -/
def Obligations.WordsDecodeByMaskAndMatch : Prop :=
  ∀ (w : OpWord) (i : Instr),
    w &&& rowMask i = rowMatch i ↔ ∃ j, decode w = .ok j ∧ rowMatch j = rowMatch i

/-- 30_encoding.md R89 and the first sentence of R90: a word is illegal exactly when its `op` is 0x0 or
0x8 to 0xF or a must-be-zero field is not zero. -/
def Obligations.IllegalWordsAreThoseThatBreakMustBeZero : Prop :=
  ∀ w : OpWord, (∃ e, decode w = .error e) ↔
    w.extractLsb 31 28 = 0 ∨ 8 ≤ (w.extractLsb 31 28).toNat ∨
      ((w.extractLsb 31 28 = 1 ∨ w.extractLsb 31 28 = 2 ∨ w.extractLsb 31 28 = 3) ∧
        w.extractLsb 19 16 ≠ 0) ∨
      (w.extractLsb 31 28 = 4 ∧ w.extractLsb 15 8 ≠ 0) ∨
      (w.extractLsb 31 28 = 5 ∧
        (w.extractLsb 27 20 ≠ 0 ∨ w.extractLsb 19 16 ≠ 0 ∨ w.extractLsb 15 8 ≠ 0)) ∨
      ((w.extractLsb 31 28 = 6 ∨ w.extractLsb 31 28 = 7) ∧ w.extractLsb 27 0 ≠ 0)

/-- 95_test_vectors.md T-D1, T-D2, T-D3, T-D5, T-D8, T-D9, T-D10, T-D11, T-D14: words written out from
the encoding decode to the operations they stand for, and two illegal words to an error. The spec has the
one outcome `illegal`; which reason an illegal word has is the model's choice (log 19, DESIGN CHOICE). -/
def Obligations.KnownWordsDecode : Prop :=
  decode 0x1A000080 = .ok (.wr 0xA0 0x0080) ∧ decode 0x21500040 = .ok (.bis 0x15 0x0040) ∧
    decode 0x31400008 = .ok (.bic 0x14 0x0008) ∧ decode 0x410300FF = .ok (.bbs 0x10 3 (-1)) ∧
    decode 0x50000080 = .ok (.br (-128)) ∧ decode 0x60000000 = .ok .sleep ∧
    decode 0x70000000 = .ok .reti ∧ decode 0x00000000 = .error .illegalOpcode ∧
    decode 0x41030103 = .error .mustBeZero

/-! ### The sequencer's step and the scheduler -/

/-- 41_control_ops.md R110: when the sequencer's operation is next and enabled and the word at `ROM[pc]`
decodes to `i`, the step is `exec i`, after the choice is used up and its draw stored; if the rule of `i`
raised no fault, `WDT_GRACE` becomes 0. -/
def Obligations.StepRunsTheDecodedOperation : Prop :=
  ∀ (s : State) (d : Byte) (i : Instr), nextChoice s = .operation d → s.fault = none →
    s.lpm = .active → decode (Memory.read s.rom s.pc.toNat) = .ok i →
    step s =
      match exec i { dropChoice s with iesDraw := d } with
      | .next t => .next (if t.fault = none then { t with wdtGrace := false } else t)
      | .fault f => .fault f
      | .refused r => .refused r

/-- 41_control_ops.md R110, 30_encoding.md R90: an illegal word raises `IllegalOp` with its address and
itself, and nothing else changes in the block. -/
def Obligations.IllegalWordRaisesIllegalOp : Prop :=
  ∀ (s : State) (d : Byte) (e : DecodeError), nextChoice s = .operation d → s.fault = none →
    s.lpm = .active → decode (Memory.read s.rom s.pc.toNat) = .error e →
    step s = .next { dropChoice s with
      iesDraw := d
      fault := some (.illegalOp s.pc (Memory.read s.rom s.pc.toNat)) }

/-- The model's own loader (log 8): whatever the state, the step after `withFetchWord` runs the word
given to it. -/
def Obligations.FetchedWordRunsNext : Prop :=
  ∀ (s : State) (w : Nat) (i : Instr), w < 2 ^ 32 → decode (BitVec.ofNat 32 w) = .ok i →
    step (s.withFetchWord 32 w) =
      finish (exec i { s with
        rom := Memory.write s.rom s.pc.toNat (BitVec.ofNat 32 w)
        lpm := .active
        fault := none
        ticket := s.ticket + 1 })

/-- 70_reset_and_hazards.md section 6 (R216): the block never halts. Every state has a next state: no step
of the model ends in a fault outcome or a refusal (log 3). -/
def Obligations.EveryStateHasANextState : Prop :=
  ∀ s : State, ∃ t, step s = .next t

/-- 70_reset_and_hazards.md section 5, the table of R213: when each step is enabled. -/
def Obligations.StepsAreEnabledAsTheTableSays : Prop :=
  ∀ (s : State) (d : Byte) (p : PortId) (cs : List PinChange) (r : ResetDraws),
    (enabled (.operation d) s = true ↔ s.fault = none ∧ s.lpm = .active) ∧
    (enabled (.acceptance p) s = true ↔
      s.fault = none ∧ s.gie = true ∧ (s.port p).ifg &&& (s.port p).ie ≠ 0) ∧
    (enabled .tick s = true ↔ s.tctl = 0x0210) ∧
    enabled (.environment cs) s = true ∧
    (enabled (.watchdogExpiry r) s = true ↔ s.wdt.getLsbD 7 = false ∧ s.wdtGrace = false) ∧
    enabled (.powerOnReset r) s = true

/-- The model's reading of a choice that is not enabled (log 1): it is the environment step that changes
nothing (44_port_pin_and_edge_logic.md R161), so the block stays as it is. -/
def Obligations.DisabledChoiceIsTheEmptyEnvironmentStep : Prop :=
  ∀ (c : Choice) (s : State), enabled c s = false →
    takeChoice c s = .next s ∧ takeChoice (.environment []) s = .next s

/-- The model's device for the scheduling that 70_reset_and_hazards.md R214 leaves free (log 1, DESIGN
CHOICE): whatever list of choices stands at the head of the agenda, the machine takes exactly those steps
in that order, a choice that is not enabled as the environment step that changes nothing. So all
interleavings are runs of the machine. -/
def Obligations.EveryInterleavingIsARun : Prop :=
  ∀ (cs rest : List Choice) (s t : State), s.agenda = cs ++ rest →
    takeAll cs { s with agenda := rest } = .next t →
    Host.Core.run Sys2Proof.core cs.length s = .next t

/-! ### Invariants and whole-machine rules -/

/-- 10_state.md section 8 (R46), 41_control_ops.md R110: the invariant holds after reset, and after the
reset step whatever its draws. -/
def Obligations.ResetMeetsTheInvariant : Prop :=
  BlockInv State.reset ∧
    ∀ (s : State) (d : ResetDraws), Memory.wf s.rom = true → s.params.wf = true → BlockInv (resetStep d s)

/-- 41_control_ops.md R110, R114, 60_exceptions.md R177, R180, 10_state.md R34, R35, R37: every step keeps
the mode invariant, the legal register values, the canonical program store and the parameters'
constraint. -/
def Obligations.EveryStepKeepsTheInvariant : Prop :=
  ∀ s t : State, BlockInv s → step s = .next t → BlockInv t

/-- 20_memory.md R71: no step writes the program store, so a fetch always returns the word `ROM` holds;
nor does a step change the parameters (10_state.md R45). -/
def Obligations.NoStepWritesTheProgramStore : Prop :=
  ∀ s t : State, step s = .next t →
    t.rom = s.rom ∧ (∀ a, Memory.read t.rom a = Memory.read s.rom a) ∧ t.params = s.params

/-- 41_control_ops.md section 1 (R110): "A sequencer step and an interrupt acceptance are never both
enabled". -/
def Obligations.OperationAndAcceptanceAreNeverBothEnabled : Prop :=
  ∀ (s : State) (d : Byte) (p : PortId), ModeInv s → enabled (.operation d) s = true →
    enabled (.acceptance p) s = false

/-- 60_exceptions.md section 3 (R187, R188): only the acceptance of an unmasked, pending port interrupt
with `GIE` = 1, or a reset, ends the wait. -/
def Obligations.OnlyAcceptanceOrResetEndsTheWait : Prop :=
  ∀ s t : State, step s = .next t → s.lpm = .wait → t.lpm = .active →
    (∃ p v, nextChoice s = .acceptance p ∧ s.fault = none ∧ s.gie = true ∧
        (s.port p).ifg &&& (s.port p).ie ≠ 0 ∧ s.params.vec p = some v ∧ t.pc = v) ∨
      ∃ d, nextChoice s = .watchdogExpiry d ∨ nextChoice s = .powerOnReset d

/-- 10_state.md section 5 (R38): only `SLEEP` sets `GIE` and only `RETI` restores it; only acceptance, and
a reset, clears it. -/
def Obligations.GieChangesOnlyBySleepRetiAcceptanceAndReset : Prop :=
  ∀ s t : State, BlockInv s → step s = .next t →
    (s.gie = false → t.gie = true → ∃ d i, nextChoice s = .operation d ∧
      decode (Memory.read s.rom s.pc.toNat) = .ok i ∧ (i = .sleep ∨ i = .reti)) ∧
    (s.gie = true → t.gie = false → (∃ p, nextChoice s = .acceptance p) ∨
      ∃ d, nextChoice s = .watchdogExpiry d ∨ nextChoice s = .powerOnReset d)

/-- 60_exceptions.md sections 2 and 3 (R180, R185): the handler context is entered only by acceptance and
left only by `RETI` or a reset; inside it `GIE` stays 0 and `SAVED` is never overwritten. -/
def Obligations.HandlerContextIsNeverNested : Prop :=
  ∀ s t : State, BlockInv s → step s = .next t →
    (s.inh = false → t.inh = true → ∃ p, nextChoice s = .acceptance p) ∧
    (s.inh = true → t.inh = false →
      (∃ d, nextChoice s = .operation d ∧ decode (Memory.read s.rom s.pc.toNat) = .ok .reti) ∨
        ∃ d, nextChoice s = .watchdogExpiry d ∨ nextChoice s = .powerOnReset d) ∧
    (s.inh = true → t.inh = true → t.gie = false ∧ t.saved = s.saved)

/-- 41_control_ops.md R115: `pc` changes in exactly five ways. -/
def Obligations.PcChangesInExactlyFiveWays : Prop :=
  ∀ s t : State, step s = .next t → t.pc ≠ s.pc →
    (∃ d i, nextChoice s = .operation d ∧ decode (Memory.read s.rom s.pc.toNat) = .ok i ∧
      ((t.pc.toNat = s.pc.toNat + 1 ∧ ((∃ a k, i = .wr a k ∨ i = .bis a k ∨ i = .bic a k) ∨
          i = .sleep ∨ ∃ a r b off, i = .bbs a b off ∧ regAt a = some r ∧
            (readReg s r).getLsbD b = false)) ∨
        (∃ off, (t.pc.toNat : Int) = s.pc.toNat + 1 + off ∧ (i = .br off ∨
          ∃ a r b, i = .bbs a b off ∧ regAt a = some r ∧ (readReg s r).getLsbD b = true)) ∨
        (i = .reti ∧ t.pc = s.saved.pc))) ∨
    (∃ p, nextChoice s = .acceptance p ∧ s.params.vec p = some t.pc) ∨
    (t.pc = 0x00 ∧ ∃ d, nextChoice s = .watchdogExpiry d ∨ nextChoice s = .powerOnReset d)

/-- 10_state.md section 6 (R43), 41_control_ops.md R110: an enabled operation that completes without a fault
leaves `WDT_GRACE` at 0; `WDT_GRACE` leaves 1 in no other way, and comes back to 1 only by a reset. -/
def Obligations.GraceEndsWithTheFirstCompletedOperation : Prop :=
  ∀ s t : State, step s = .next t →
    (∀ d i, nextChoice s = .operation d → s.fault = none → s.lpm = .active →
      decode (Memory.read s.rom s.pc.toNat) = .ok i → t.fault = none → t.wdtGrace = false) ∧
    (s.wdtGrace = true → t.wdtGrace = false → t.fault = none ∧ ∃ d i, nextChoice s = .operation d ∧
      decode (Memory.read s.rom s.pc.toNat) = .ok i) ∧
    (s.wdtGrace = false → t.wdtGrace = true →
      ∃ d, nextChoice s = .watchdogExpiry d ∨ nextChoice s = .powerOnReset d)

/-- 60_exceptions.md section 1 (R170), 10_state.md R42: a fault once set is cleared by no step but a
reset, and until then `pc`, the modes and the saved context stand still. -/
def Obligations.FaultIsClearedOnlyByReset : Prop :=
  ∀ (s t : State) (f : Fault), step s = .next t → s.fault = some f →
    (t.fault = some f ∧ t.pc = s.pc ∧ t.gie = s.gie ∧ t.lpm = s.lpm ∧ t.inh = s.inh ∧
        t.saved = s.saved) ∨
      (t.fault = none ∧ ∃ d, nextChoice s = .watchdogExpiry d ∨ nextChoice s = .powerOnReset d)

/-- 60_exceptions.md section 1 (R170): the operation that raises a fault has no other effect. -/
def Obligations.FaultingOperationHasNoOtherEffect : Prop :=
  ∀ (i : Instr) (s t : State), s.fault = none → exec i s = .next t → t.fault ≠ none →
    t = { s with fault := t.fault }

/-! ### Register operations -/

/-- 40_register_ops.md R101 with R100: `WR` completes where the register is mapped and writable, the
immediate fits it, the value is legal and `pc` is not the last address; the register then reads the
immediate, `pc` is one further, and the rest is as `RegisterWritten` says. -/
def Obligations.WrWritesTheWholeRegister : Prop :=
  ∀ (s : State) (a : RegAddr) (r : Reg) (k : Half), regAt a = some r → r.readOnly = false →
    (r.width = 8 → k.toNat ≤ 0xFF) → legalValue r k = true → s.pc ≠ 0x3F →
    ∃ t, exec (.wr a k) s = .next t ∧ RegisterWritten s r k t

/-- 40_register_ops.md R102 with R100: `BIS` sets the bits of the mask and keeps the others. -/
def Obligations.BisSetsTheBitsOfTheMask : Prop :=
  ∀ (s : State) (a : RegAddr) (r : Reg) (k : Half), regAt a = some r → r.readOnly = false →
    (r.width = 8 → k.toNat ≤ 0xFF) → legalValue r (readReg s r ||| k) = true → s.pc ≠ 0x3F →
    ∃ t, exec (.bis a k) s = .next t ∧ RegisterWritten s r (readReg s r ||| k) t

/-- 40_register_ops.md R103 with R100: `BIC` clears the bits of the mask and keeps the others. -/
def Obligations.BicClearsTheBitsOfTheMask : Prop :=
  ∀ (s : State) (a : RegAddr) (r : Reg) (k : Half), regAt a = some r → r.readOnly = false →
    (r.width = 8 → k.toNat ≤ 0xFF) → legalValue r (readReg s r &&& ~~~k) = true → s.pc ≠ 0x3F →
    ∃ t, exec (.bic a k) s = .next t ∧ RegisterWritten s r (readReg s r &&& ~~~k) t

/-- 40_register_ops.md sections 1 and 2 (corner cases of R101, R102, R103): writing the value a register
holds, and a mask of 0, change nothing but `pc`. -/
def Obligations.RewritingAValueChangesOnlyPc : Prop :=
  ∀ (s : State) (a : RegAddr) (r : Reg), regAt a = some r → r.readOnly = false →
    legalValue r (readReg s r) = true → s.pc ≠ 0x3F →
    exec (.wr a (readReg s r)) s = .next { s with pc := s.pc + 1 } ∧
    exec (.bis a 0) s = .next { s with pc := s.pc + 1 } ∧
    exec (.bic a 0) s = .next { s with pc := s.pc + 1 }

/-- 20_memory.md R64: an operation whose register address is unmapped faults with `BadRegister`; nothing
is read and nothing is written. -/
def Obligations.UnmappedAddressFaults : Prop :=
  ∀ (s : State) (a : RegAddr), (∀ r : Reg, r.addr ≠ a) →
    (∀ k, exec (.wr a k) s = .next { s with fault := some (.badRegister a) }) ∧
    (∀ k, exec (.bis a k) s = .next { s with fault := some (.badRegister a) }) ∧
    (∀ k, exec (.bic a k) s = .next { s with fault := some (.badRegister a) }) ∧
    ∀ bit off, exec (.bbs a bit off) s = .next { s with fault := some (.badRegister a) }

/-- 10_state.md R22: `IN` reads the levels of the pins, bit `b` that of pin `b`; a write to it faults,
whatever the immediate. -/
def Obligations.InputRegisterReadsLevelsAndRefusesWrites : Prop :=
  ∀ (s : State) (p : PortId),
    (∀ b : Pin, (readReg s (.portIn p)).getLsbD b = level s p b) ∧
    (readReg s (.portIn p)).toNat ≤ 0xFF ∧
    ∀ k, exec (.wr (Reg.portIn p).addr k) s =
        .next { s with fault := some (.readOnlyWrite (Reg.portIn p).addr) } ∧
      exec (.bis (Reg.portIn p).addr k) s =
        .next { s with fault := some (.readOnlyWrite (Reg.portIn p).addr) } ∧
      exec (.bic (Reg.portIn p).addr k) s =
        .next { s with fault := some (.readOnlyWrite (Reg.portIn p).addr) }

/-- 30_encoding.md R86, 40_register_ops.md R100 check 3: an immediate above 0xFF for an 8-bit register
faults with `OperandRange`. -/
def Obligations.WideImmediateFaults : Prop :=
  ∀ (s : State) (a : RegAddr) (r : Reg) (k : Half), regAt a = some r → r.readOnly = false →
    r.width = 8 → 0xFF < k.toNat →
    exec (.wr a k) s = .next { s with fault := some (.operandRange a k.toNat) } ∧
    exec (.bis a k) s = .next { s with fault := some (.operandRange a k.toNat) } ∧
    exec (.bic a k) s = .next { s with fault := some (.operandRange a k.toNat) }

/-- 10_state.md R34, R35, R37, 40_register_ops.md R100 check 5: a write to `TCTL`, `TCCTL` or `WDT` whose
result is not one of the legal values faults with `ReservedValue`; for `BIS` and `BIC` the result
decides, not the mask. -/
def Obligations.ReservedValueFaults : Prop :=
  ∀ (s : State) (k v : Half) (i : Instr) (a : RegAddr),
    ((a = 0x80 ∧ v ≠ 0x0000 ∧ v ≠ 0x0200 ∧ v ≠ 0x0210 ∧
        (i = .wr a k ∧ v = k ∨ i = .bis a k ∧ v = s.tctl ||| k ∨ i = .bic a k ∧ v = s.tctl &&& ~~~k)) ∨
      (a = 0x81 ∧ v ≠ 0x0000 ∧ v ≠ 0x0060 ∧ v ≠ 0x00E0 ∧
        (i = .wr a k ∧ v = k ∨ i = .bis a k ∧ v = s.tcctl ||| k ∨
          i = .bic a k ∧ v = s.tcctl &&& ~~~k)) ∨
      (a = 0xA0 ∧ v ≠ 0x0000 ∧ v ≠ 0x0080 ∧
        (i = .wr a k ∧ v = k ∨ i = .bis a k ∧ v = s.wdt ||| k ∨ i = .bic a k ∧ v = s.wdt &&& ~~~k))) →
    exec i s = .next { s with fault := some (.reservedValue a v) }

/-- 44_port_pin_and_edge_logic.md R169: a step that writes `IFG` changes no level, and a step that changes
a level does not write `IFG` except to latch. -/
def Obligations.FlagWritesAndLevelChangesNeverMeet : Prop :=
  ∀ s t : State, step s = .next t → (∀ d, nextChoice s ≠ .watchdogExpiry d) →
    (∀ d, nextChoice s ≠ .powerOnReset d) →
    (∀ d a k p i, nextChoice s = .operation d → decode (Memory.read s.rom s.pc.toNat) = .ok i →
      regAt a = some (.portIfg p) → (i = .wr a k ∨ i = .bis a k ∨ i = .bic a k) →
      ∀ (q : PortId) (b : Pin), level t q b = level s q b) ∧
    ((∃ (q : PortId) (b : Pin), level t q b ≠ level s q b) →
      ∀ (q : PortId) (b : Pin), (t.port q).ifg.getLsbD b = ((s.port q).ifg.getLsbD b || latches s t q b))

/-- 20_memory.md section 1 (R61, R62): the register map, row by row. Exactly the listed addresses are mapped,
each to the register of its row; every register stands at its own address, has the width and access of
its row, and reads the state component it is named for. -/
def Obligations.RegisterMapIsAsTheTableSays : Prop :=
  (∀ (a : RegAddr) (r : Reg), regAt a = some r ↔ (a, r) ∈ ([
    (0x10, .portIn .p0), (0x11, .portOut .p0), (0x12, .portDir .p0), (0x13, .portRen .p0),
    (0x14, .portIes .p0), (0x15, .portSel .p0), (0x16, .portSel2 .p0), (0x17, .portIe .p0),
    (0x18, .portIfg .p0),
    (0x20, .portIn .p1), (0x21, .portOut .p1), (0x22, .portDir .p1), (0x23, .portRen .p1),
    (0x24, .portIes .p1), (0x25, .portSel .p1), (0x26, .portSel2 .p1), (0x27, .portIe .p1),
    (0x28, .portIfg .p1),
    (0x80, .tctl), (0x81, .tcctl), (0x82, .tcnt), (0x83, .tperiod), (0x84, .tcompare),
    (0x90, .clkrange), (0x91, .clkdco), (0xA0, .wdt)] : List (RegAddr × Reg))) ∧
  (∀ a : RegAddr, regAt a = none ↔
    ¬((0x10 ≤ a.toNat ∧ a.toNat ≤ 0x18) ∨ (0x20 ≤ a.toNat ∧ a.toNat ≤ 0x28) ∨
      (0x80 ≤ a.toNat ∧ a.toNat ≤ 0x84) ∨ a = 0x90 ∨ a = 0x91 ∨ a = 0xA0)) ∧
  (∀ r : Reg, regAt r.addr = some r ∧ (r.readOnly = true ↔ ∃ p, r = .portIn p) ∧
    r.width = if r = .tctl ∨ r = .tcctl ∨ r = .tcnt ∨ r = .tperiod ∨ r = .tcompare ∨ r = .wdt
      then 16 else 8) ∧
  ∀ (s : State) (p : PortId),
    (readReg s (.portIn p) = (inputByte s p).setWidth 16 ∧
      readReg s (.portOut p) = (s.port p).out.setWidth 16 ∧
      readReg s (.portDir p) = (s.port p).dir.setWidth 16 ∧
      readReg s (.portRen p) = (s.port p).ren.setWidth 16 ∧
      readReg s (.portIes p) = (s.port p).ies.setWidth 16 ∧
      readReg s (.portSel p) = (s.port p).sel.setWidth 16 ∧
      readReg s (.portSel2 p) = (s.port p).sel2.setWidth 16 ∧
      readReg s (.portIe p) = (s.port p).ie.setWidth 16 ∧
      readReg s (.portIfg p) = (s.port p).ifg.setWidth 16) ∧
    readReg s .tctl = s.tctl ∧ readReg s .tcctl = s.tcctl ∧ readReg s .tcnt = s.tcnt ∧
    readReg s .tperiod = s.tperiod ∧ readReg s .tcompare = s.tcompare ∧
    readReg s .clkrange = s.clkrange.setWidth 16 ∧ readReg s .clkdco = s.clkdco.setWidth 16 ∧
    readReg s .wdt = s.wdt

/-! ### Control operations -/

/-- 41_control_ops.md R111: `BBS` completes where the register is mapped, the bit index is below its width
and the target chosen lies in the program store; it changes `pc` and nothing else. -/
def Obligations.BbsBranchesOnTheRegisterBit : Prop :=
  ∀ (s : State) (a : RegAddr) (r : Reg) (bit : Nat) (off target : Int), regAt a = some r →
    bit < r.width →
    target = (s.pc.toNat : Int) + 1 + (if (readReg s r).getLsbD bit then off else 0) →
    0 ≤ target → target ≤ 0x3F →
    ∃ u : State, exec (.bbs a bit off) s = .next u ∧ (u.pc.toNat : Int) = target ∧
      u = { s with pc := u.pc }

/-- 41_control_ops.md R112: `BR` completes where its target lies in the program store; it changes `pc` and
nothing else. -/
def Obligations.BrBranchesAlways : Prop :=
  ∀ (s : State) (off : Int), 0 ≤ (s.pc.toNat : Int) + 1 + off → (s.pc.toNat : Int) + 1 + off ≤ 0x3F →
    ∃ u : State, exec (.br off) s = .next u ∧ (u.pc.toNat : Int) = s.pc.toNat + 1 + off ∧
      u = { s with pc := u.pc }

/-- 30_encoding.md R87: the bit index of a word is its unsigned field 19:16, 0 to 15; it must be less than
the width of the register, otherwise `BBS` faults with `OperandRange`. -/
def Obligations.BitIndexOutOfRangeFaults : Prop :=
  (∀ (w : OpWord) (a : RegAddr) (bit : Nat) (off : Int), decode w = .ok (.bbs a bit off) →
    bit = (w.extractLsb 19 16).toNat ∧ bit ≤ 15) ∧
  ∀ (s : State) (a : RegAddr) (r : Reg) (bit : Nat) (off : Int), regAt a = some r → r.width ≤ bit →
    exec (.bbs a bit off) s = .next { s with fault := some (.operandRange a bit) }

/-- 41_control_ops.md R110, R111, R112, R113, 30_encoding.md R88: whatever would move `pc` out of the
program store faults with `PcRange` of the target: a branch to a target outside it, and a completing
write, a `SLEEP` or an untaken `BBS` at 0x3F. -/
def Obligations.LeavingTheProgramStoreFaults : Prop :=
  ∀ s : State,
    (∀ off target : Int, target = (s.pc.toNat : Int) + 1 + off → (target < 0 ∨ 0x3F < target) →
      exec (.br off) s = .next { s with fault := some (.pcRange target) }) ∧
    (∀ (a : RegAddr) (r : Reg) (bit : Nat) (off target : Int), regAt a = some r → bit < r.width →
      target = (s.pc.toNat : Int) + 1 + (if (readReg s r).getLsbD bit then off else 0) →
      (target < 0 ∨ 0x3F < target) →
      exec (.bbs a bit off) s = .next { s with fault := some (.pcRange target) }) ∧
    (s.pc = 0x3F → s.inh = false → exec .sleep s = .next { s with fault := some (.pcRange 0x40) }) ∧
    (∀ (a : RegAddr) (r : Reg) (k : Half), s.pc = 0x3F → regAt a = some r → r.readOnly = false →
      (r.width = 8 → k.toNat ≤ 0xFF) →
      (legalValue r k = true → exec (.wr a k) s = .next { s with fault := some (.pcRange 0x40) }) ∧
      (legalValue r (readReg s r ||| k) = true →
        exec (.bis a k) s = .next { s with fault := some (.pcRange 0x40) }) ∧
      (legalValue r (readReg s r &&& ~~~k) = true →
        exec (.bic a k) s = .next { s with fault := some (.pcRange 0x40) }))

/-- 41_control_ops.md R113: outside the handler and before the last address `SLEEP` sets `GIE` and `LPM`
in one step, advances `pc`, and changes nothing else. -/
def Obligations.SleepEnablesInterruptsAndWaits : Prop :=
  ∀ s : State, s.inh = false → s.pc ≠ 0x3F →
    exec .sleep s = .next { s with gie := true, lpm := .wait, pc := s.pc + 1 }

/-- 41_control_ops.md R114: in the handler `RETI` restores `pc`, `GIE` and `LPM` from `SAVED`, leaves the
handler context, and changes nothing else, at every address. -/
def Obligations.RetiRestoresTheSavedContext : Prop :=
  ∀ s : State, s.inh = true →
    exec .reti s =
      .next { s with pc := s.saved.pc, gie := s.saved.gie, lpm := s.saved.lpm, inh := false }

/-- 60_exceptions.md R171, 41_control_ops.md R113, R114: `SLEEP` in the handler and `RETI` outside it
fault, at every address, with no other effect. -/
def Obligations.ContextOperationsInTheWrongContextFault : Prop :=
  ∀ s : State,
    (s.inh = true → exec .sleep s = .next { s with fault := some (.sleepInHandler s.pc) }) ∧
    (s.inh = false → exec .reti s = .next { s with fault := some (.retiOutsideHandler s.pc) })

/-! ### Interrupt acceptance -/

/-- 60_exceptions.md R178, R179: acceptance saves `pc`, `GIE` and `LPM`, clears `GIE`, sets `LPM` to
`ACTIVE` and `INH` to 1 and moves `pc` to the vector, and nothing else; without a vector it faults with
`NoVector` and nothing else. -/
def Obligations.AcceptanceEntersTheHandler : Prop :=
  ∀ (s : State) (p : PortId), nextChoice s = .acceptance p → s.fault = none → s.gie = true →
    (s.port p).ifg &&& (s.port p).ie ≠ 0 →
    (∀ v, s.params.vec p = some v → step s = .next { dropChoice s with
      saved := ⟨s.pc, s.gie, s.lpm⟩
      gie := false
      lpm := .active
      inh := true
      pc := v }) ∧
    (s.params.vec p = none → step s = .next { dropChoice s with fault := some (.noVector p) })

/-- 60_exceptions.md section 2 (R178, R181): from an idle state, acceptance followed by a `RETI` at the
vector is back in the idle state it left, but for the watchdog's grace bit and the model's own fields. -/
def Obligations.AcceptanceThenRetiComesBack : Prop :=
  ∀ (s : State) (p : PortId) (v : ProgAddr) (d : Byte), Idle s → requests s p = true →
    s.params.vec p = some v → decode (Memory.read s.rom v.toNat) = .ok .reti →
    ∃ t, takeAll [.acceptance p, .operation d] s = .next t ∧ Idle t ∧
      t = { s with
        saved := ⟨s.pc, true, .wait⟩
        wdtGrace := false
        iesDraw := d
        ticket := s.ticket + 2 }

/-- 44_port_pin_and_edge_logic.md section 2 (R166): a port requests exactly when some pin has its flag
latched and its enable bit set. -/
def Obligations.RequestIsAFlaggedAndEnabledPin : Prop :=
  ∀ (s : State) (p : PortId), requests s p = true ↔
    ∃ b : Pin, (s.port p).ifg.getLsbD b = true ∧ (s.port p).ie.getLsbD b = true

/-! ### The timer -/

/-- 43_timer_unit.md section 2 (R142): a tick counts up below the period and wraps otherwise; it changes
`TCNT` alone, so it latches no flag, on any pin. -/
def Obligations.TickChangesOnlyTheCounter : Prop :=
  ∀ s : State, nextChoice s = .tick → s.tctl = 0x0210 →
    step s = .next { dropChoice s with
      tcnt := if s.tcnt.toNat + 1 < s.tperiod.toNat then BitVec.ofNat 16 (s.tcnt.toNat + 1) else 0 }

/-- 43_timer_unit.md R149: the corner cases (a) to (f) of counting and of the compare output; before them the
three lines of R146, which give `TOUT` at every counter value, also at or above the period. -/
def Obligations.TimerCornerCases : Prop :=
  ∀ s : State,
    ((s.tcctl.extractLsb 7 5 = 0 → tout s = false) ∧
      (s.tcctl.extractLsb 7 5 = 3 → (tout s = true ↔ s.tcompare.toNat ≤ s.tcnt.toNat)) ∧
      (s.tcctl.extractLsb 7 5 = 7 → (tout s = true ↔ s.tcnt.toNat < s.tcompare.toNat))) ∧
    (s.tperiod.toNat ≤ 1 → (∀ n, (ticks (n + 1) s).tcnt = 0) ∧ rolloverNext s = true ∧
      (s.tcctl = 0x00E0 → s.tcnt = 0 → (tout s = true ↔ 0 < s.tcompare.toNat))) ∧
    (s.tcompare = 0 → (s.tcctl = 0x00E0 → tout s = false) ∧ (s.tcctl = 0x0060 → tout s = true)) ∧
    (s.tperiod.toNat ≤ s.tcompare.toNat → s.tcnt.toNat < s.tperiod.toNat →
      (s.tcctl = 0x00E0 → tout s = true) ∧ (s.tcctl = 0x0060 → tout s = false) ∧
        (timerTick s).tcnt ≠ s.tcompare) ∧
    (s.tperiod.toNat ≤ s.tcnt.toNat → (timerTick s).tcnt = 0 ∧ rolloverNext s = true) ∧
    ((timerTick s).tcnt ≠ 0 → (timerTick s).tcnt.toNat = s.tcnt.toNat + 1 ∧
      s.tcnt.toNat + 1 < s.tperiod.toNat) ∧
    (s.tcnt = 0xFFFF → (timerTick s).tcnt = 0)

/-- 43_timer_unit.md section 3 (R146, R147), the waveform law: with the tick enabled and `TPERIOD` = P >= 1,
the counter runs through 0 to P - 1 for ever, from the first tick on if it starts at P or above; `TOUT` is
at every tick what the three lines of R146 say; and in every period `TOUT` is high for the first min(C, P)
tick intervals in `RESET_SET`, for the last P - min(C, P) in `SET_RESET`, for none in `OFF`. -/
def Obligations.WaveformLaw : Prop :=
  ∀ (s : State) (P C : Nat), s.tctl = 0x0210 → s.tperiod.toNat = P → s.tcompare.toNat = C → 1 ≤ P →
    (∀ n, takeAll (List.replicate n .tick) s = .next { ticks n s with ticket := s.ticket + n }) ∧
    (s.tcnt.toNat < P → ∀ n, (ticks n s).tcnt.toNat = (s.tcnt.toNat + n) % P) ∧
    (P ≤ s.tcnt.toNat → ∀ n, (ticks (n + 1) s).tcnt.toNat = n % P) ∧
    (∀ n, (s.tcctl = 0x0000 → tout (ticks n s) = false) ∧
      (s.tcctl = 0x0060 → (tout (ticks n s) = true ↔ C ≤ (ticks n s).tcnt.toNat)) ∧
      (s.tcctl = 0x00E0 → (tout (ticks n s) = true ↔ (ticks n s).tcnt.toNat < C))) ∧
    ∀ m, (ticks m s).tcnt = 0 →
      (s.tcctl = 0x00E0 → highIntervals P (ticks m s) = min C P ∧
        ∀ n, n < P → (tout (ticks n (ticks m s)) = true ↔ n < min C P)) ∧
      (s.tcctl = 0x0060 → highIntervals P (ticks m s) = P - min C P ∧
        ∀ n, n < P → (tout (ticks n (ticks m s)) = true ↔ min C P ≤ n)) ∧
      (s.tcctl = 0x0000 → highIntervals P (ticks m s) = 0)

/-! ### Pins and flags -/

/-- 44_port_pin_and_edge_logic.md section 1 (R155, R158): a pin's role and whether it is a digital input, by
its `SEL`, `SEL2` and `DIR` bits, and then the seven cases of its level. -/
def Obligations.PinLevelsAreAsTheTableSays : Prop :=
  ∀ (s : State) (p : PortId) (b : Pin),
    (role s p b = .gpio ↔
      (s.port p).sel2.getLsbD b = false ∧ (s.port p).sel.getLsbD b = false) ∧
    (role s p b = .timer ↔ (s.port p).sel2.getLsbD b = false ∧ (s.port p).sel.getLsbD b = true ∧
      p = s.params.pwmPort ∧ b = s.params.pwmBit) ∧
    (role s p b = .unspec ↔ (s.port p).sel2.getLsbD b = true ∨
      ((s.port p).sel.getLsbD b = true ∧ ¬(p = s.params.pwmPort ∧ b = s.params.pwmBit))) ∧
    (isDigitalInput s p b = true ↔ (s.port p).sel2.getLsbD b = false ∧
      (s.port p).sel.getLsbD b = false ∧ (s.port p).dir.getLsbD b = false) ∧
    (role s p b = .timer → level s p b = tout s) ∧
    (role s p b = .gpio → (s.port p).dir.getLsbD b = true →
      level s p b = (s.port p).out.getLsbD b) ∧
    (isDigitalInput s p b = true →
      ((s.env p).ext.get b = .H → level s p b = true) ∧
      ((s.env p).ext.get b = .L → level s p b = false) ∧
      ((s.env p).ext.get b = .Z → (s.port p).ren.getLsbD b = true →
        level s p b = (s.port p).out.getLsbD b) ∧
      ((s.env p).ext.get b = .Z → (s.port p).ren.getLsbD b = false →
        level s p b = (s.env p).flt.get b)) ∧
    (role s p b = .unspec → level s p b = (s.env p).flt.get b)

/-- 44_port_pin_and_edge_logic.md section 1 (R155, R160): the PWM pin carries `TOUT` while its `SEL` bit is
1 and its `SEL2` bit 0, whatever its Direction and Output bits hold, and its Output bit while both are 0
and it is an output. -/
def Obligations.PwmPinCarriesTimerOrOutput : Prop :=
  ∀ (s : State) (r : PortRegs) (b : Pin), r = s.port s.params.pwmPort → b = s.params.pwmBit →
    (r.sel.getLsbD b = true → r.sel2.getLsbD b = false → pwmPinLevel s = tout s) ∧
    (r.sel.getLsbD b = false → r.sel2.getLsbD b = false → r.dir.getLsbD b = true →
      pwmPinLevel s = r.out.getLsbD b)

/-- 44_port_pin_and_edge_logic.md R161, R163: an environment step applies its changes, latches exactly the
armed edges of pins that are digital inputs before and after, and changes nothing else. -/
def Obligations.EnvironmentStepLatchesArmedEdges : Prop :=
  ∀ (s : State) (cs : List PinChange), nextChoice s = .environment cs →
    ∃ t, step s = .next t ∧ (∀ p, t.env p = (applyChanges cs s).env p) ∧
      t = { dropChoice s with
        env0 := t.env0
        env1 := t.env1
        port0 := { s.port0 with ifg := t.port0.ifg }
        port1 := { s.port1 with ifg := t.port1.ifg } } ∧
      ∀ (p : PortId) (b : Pin), (t.port p).ifg.getLsbD b = true ↔
        (s.port p).ifg.getLsbD b = true ∨
          (isDigitalInput s p b = true ∧ isDigitalInput t p b = true ∧
            (((s.port p).ies.getLsbD b = false ∧ level s p b = false ∧ level t p b = true) ∨
              ((s.port p).ies.getLsbD b = true ∧ level s p b = true ∧ level t p b = false)))

/-- 44_port_pin_and_edge_logic.md R161: one change of the environment sets the named pin's `EXT` or `FLT`
and no other; a list of changes applies each of them, in the order listed (log 18, DESIGN CHOICE for the
order). -/
def Obligations.EnvironmentChangeMovesOnePin : Prop :=
  (∀ (s : State) (p q : PortId) (b c : Pin) (d : Drive) (v : Bool),
    ((applyChange s (.ext p b d)).env q).ext.get c =
        (if q = p ∧ c = b then d else (s.env q).ext.get c) ∧
      ((applyChange s (.ext p b d)).env q).flt = (s.env q).flt ∧
      ((applyChange s (.flt p b v)).env q).flt.get c =
        (if q = p ∧ c = b then v else (s.env q).flt.get c) ∧
      ((applyChange s (.flt p b v)).env q).ext = (s.env q).ext) ∧
  (∀ s : State, applyChanges [] s = s) ∧
  ∀ (s : State) (cs : List PinChange) (c : PinChange),
    applyChanges (c :: cs) s = applyChanges cs (applyChange s c) ∧
      applyChanges (cs ++ [c]) s = applyChange (applyChanges cs s) c

/-- 44_port_pin_and_edge_logic.md section 2 (R163, R165, R168): the only ways a flag can come to be set are
an armed edge on a pin that is a digital input before and after the step, a software write of 1 to the
flag, and, where the parameter allows it, a change of the pin's Edge-Select bit (R167). -/
def Obligations.FlagsAreSetOnlyByArmedEdgesOrSoftware : Prop :=
  ∀ (s t : State) (p : PortId) (b : Pin), step s = .next t →
    (s.port p).ifg.getLsbD b = false → (t.port p).ifg.getLsbD b = true →
    (isDigitalInput s p b = true ∧ isDigitalInput t p b = true ∧
      (((t.port p).ies.getLsbD b = false ∧ level s p b = false ∧ level t p b = true) ∨
        ((t.port p).ies.getLsbD b = true ∧ level s p b = true ∧ level t p b = false))) ∨
    (∃ d a k i, nextChoice s = .operation d ∧ decode (Memory.read s.rom s.pc.toNat) = .ok i ∧
      regAt a = some (.portIfg p) ∧ (i = .wr a k ∨ i = .bis a k) ∧ k.getLsbD b = true) ∨
    (s.params.iesWriteMaySetFlag = true ∧ (t.port p).ies.getLsbD b ≠ (s.port p).ies.getLsbD b)

/-- 44_port_pin_and_edge_logic.md section 2 (R164): a flag once set stays set until an operation writes it
to 0, or a reset; edges, a change of `IES` or `IE`, acceptance and `RETI` leave it. -/
def Obligations.FlagsStayUntilSoftwareClearsThem : Prop :=
  ∀ (s t : State) (p : PortId) (b : Pin), step s = .next t →
    (s.port p).ifg.getLsbD b = true → (t.port p).ifg.getLsbD b = false →
    (∃ d a k, nextChoice s = .operation d ∧ regAt a = some (.portIfg p) ∧
      ((decode (Memory.read s.rom s.pc.toNat) = .ok (.wr a k) ∧ k.getLsbD b = false) ∨
        (decode (Memory.read s.rom s.pc.toNat) = .ok (.bic a k) ∧ k.getLsbD b = true))) ∨
    ∃ d, nextChoice s = .watchdogExpiry d ∨ nextChoice s = .powerOnReset d

/-- 44_port_pin_and_edge_logic.md section 2 (R163): `IE`, `GIE` and `LPM` play no part in the latch. Two
states that differ in them only have the same flags after the same environment step, after a tick, and
after the same operation, its register write included. -/
def Obligations.MasksPlayNoPartInTheLatch : Prop :=
  ∀ (s s' : State) (cs : List PinChange) (m0 m1 : Byte) (g : Bool) (l : LowPower),
    s' = { s with
      port0 := { s.port0 with ie := m0 }
      port1 := { s.port1 with ie := m1 }
      gie := g
      lpm := l } →
    ∀ p, ((environmentStep cs s').port p).ifg = ((environmentStep cs s).port p).ifg ∧
      ((timerTick s').port p).ifg = ((timerTick s).port p).ifg ∧
      ∀ (i : Instr) (t t' : State), exec i s = .next t → exec i s' = .next t' →
        (t'.port p).ifg = (t.port p).ifg

/-! ### Reset and watchdog -/

/-- 70_reset_and_hazards.md R196: a reset gives every component of the block its reset value, whatever the
state it starts from and whatever the draws, and leaves `ROM`, the parameters and the environment. No flag
is set by it, and after it every pin is a digital input without a pull resistor. -/
def Obligations.ResetGivesTheResetValues : Prop :=
  ∀ (s : State) (d : ResetDraws), nextChoice s = .powerOnReset d →
    ∃ t, step s = .next t ∧
      t.port0 = ⟨d.out0, 0x00, 0x00, d.ies0, 0x00, 0x00, 0x00, 0x00⟩ ∧
      t.port1 = ⟨d.out1, 0x00, 0x00, d.ies1, 0x00, 0x00, 0x00, 0x00⟩ ∧
      t.tcnt = 0x0000 ∧ t.tperiod = 0x0000 ∧ t.tcompare = 0x0000 ∧ t.tctl = 0x0000 ∧
      t.tcctl = 0x0000 ∧ t.clkrange = d.clkrange ∧ t.clkdco = d.clkdco ∧ t.wdt = 0x0000 ∧
      t.wdtGrace = true ∧ t.gie = false ∧ t.lpm = .active ∧ t.pc = 0x00 ∧ t.inh = false ∧
      t.fault = none ∧ t.rom = s.rom ∧ t.params = s.params ∧ t.env0 = s.env0 ∧ t.env1 = s.env1 ∧
      ∀ (p : PortId) (b : Pin), isDigitalInput t p b = true ∧
        level t p b =
          match (s.env p).ext.get b with
          | .H => true
          | .L => false
          | .Z => (s.env p).flt.get b

/-- 10_state.md section 8 (R46), 70_reset_and_hazards.md R197: what the spec fixes of the state right after
reset. Nothing is said of the drawn registers, whose values in `State.reset` are the model's (log 5). -/
def Obligations.StateResetHoldsTheSpecifiedValues : Prop :=
  State.reset.pc = 0x00 ∧ State.reset.gie = false ∧ State.reset.lpm = .active ∧
    State.reset.inh = false ∧ State.reset.fault = none ∧ State.reset.wdt = 0x0000 ∧
    State.reset.wdtGrace = true ∧ State.reset.tctl = 0x0000 ∧ State.reset.tcctl = 0x0000 ∧
    State.reset.tcnt = 0x0000 ∧ State.reset.tperiod = 0x0000 ∧ State.reset.tcompare = 0x0000 ∧
    ∀ p, (State.reset.port p).dir = 0x00 ∧ (State.reset.port p).ren = 0x00 ∧
      (State.reset.port p).sel = 0x00 ∧ (State.reset.port p).sel2 = 0x00 ∧
      (State.reset.port p).ie = 0x00 ∧ (State.reset.port p).ifg = 0x00

/-- 60_exceptions.md R190, 70_reset_and_hazards.md R195: the watchdog's expiry is the power-on reset with
the same draws where `HOLD` = 0 and `WDT_GRACE` = 0, in the wait and in a faulted machine too, and is
not enabled otherwise. -/
def Obligations.WatchdogExpiryIsAReset : Prop :=
  ∀ (s : State) (d : ResetDraws),
    (s.wdt.getLsbD 7 = false → s.wdtGrace = false →
      takeChoice (.watchdogExpiry d) s = takeChoice (.powerOnReset d) s) ∧
    (s.wdt.getLsbD 7 = true ∨ s.wdtGrace = true → enabled (.watchdogExpiry d) s = false)

/-! ### What the block drives, and runs -/

/-- 44_port_pin_and_edge_logic.md section 1 (R156, R158): what the block drives on a pin, by its role and
Direction bit. On an `UNSPEC` pin it is the free value of log 21, of which nothing is known. Where the
block drives a pin of a defined role, what it drives is the pin's level, whatever the outside does. -/
def Obligations.BlockDriveIsAsTheTableSays : Prop :=
  ∀ (s : State) (p : PortId) (b : Pin),
    (role s p b = .gpio → (s.port p).dir.getLsbD b = true →
      blockDrive s p b = some ((s.port p).out.getLsbD b)) ∧
    (role s p b = .timer → blockDrive s p b = some (tout s)) ∧
    (role s p b = .gpio → (s.port p).dir.getLsbD b = false → blockDrive s p b = none) ∧
    (role s p b = .unspec → blockDrive s p b = Config.unspecDrive s.ticket p b) ∧
    ∀ v, role s p b ≠ .unspec → blockDrive s p b = some v → level s p b = v

/-- 10_state.md section 8 (R46): the reset states, the first states of runs, are exactly those with the
table's values, the drawn components and the environment at any value (the program store in its canonical
form and the parameters within their constraint). The model's `State.reset` is one of them. -/
def Obligations.ResetStatesAreThoseOfTheTable : Prop :=
  IsResetState State.reset ∧
  ∀ s : State, IsResetState s ↔
    (∀ p, (s.port p).dir = 0x00 ∧ (s.port p).ren = 0x00 ∧ (s.port p).sel = 0x00 ∧
      (s.port p).sel2 = 0x00 ∧ (s.port p).ie = 0x00 ∧ (s.port p).ifg = 0x00) ∧
    s.tcnt = 0x0000 ∧ s.tperiod = 0x0000 ∧ s.tcompare = 0x0000 ∧ s.tctl = 0x0000 ∧
    s.tcctl = 0x0000 ∧ s.wdt = 0x0000 ∧ s.wdtGrace = true ∧ s.gie = false ∧ s.lpm = .active ∧
    s.pc = 0x00 ∧ s.inh = false ∧ s.fault = none ∧ Memory.wf s.rom = true ∧ s.params.wf = true

/-- 70_reset_and_hazards.md section 5 (R214): the invariant holds in every state of every run, a run being a
sequence of states, the first a reset state, each next state got by one enabled step. -/
def Obligations.EveryRunKeepsTheInvariant : Prop :=
  ∀ (choices : Nat → Choice) (run : Nat → State), IsRun choices run → ∀ n, BlockInv (run n)

/-- 60_exceptions.md section 2 (R177), 70_reset_and_hazards.md section 5 (R214): in a run under weak fairness
an enabled acceptance must eventually happen: some port's interrupt is accepted, unless a reset comes
first. -/
def Obligations.EnabledAcceptanceEventuallyHappens : Prop :=
  ∀ (choices : Nat → Choice) (run : Nat → State), IsRun choices run → WeaklyFair choices run →
    ∀ (n : Nat) (p : PortId), enabled (.acceptance p) (run n) = true →
      ∃ m, n ≤ m ∧ ((∃ q, choices m = .acceptance q) ∨
        ∃ d, choices m = .watchdogExpiry d ∨ choices m = .powerOnReset d)
end

