-- ==== Sys2Proof/Laws/Word.lean ====
section
/-! SUPPORT. Bits of a byte built pin by pin. -/

namespace Sys2Proof

theorem getLsbD_ofPins (f : Pin → Bool) (b : Pin) : (ofPins f).getLsbD b = f b := by
  unfold ofPins
  rw [BitVec.getLsbD_ofBoolListLE]
  fin_cases b <;> rfl

@[simp] theorem getElem_ofPins (f : Pin → Bool) (b : Pin) : (ofPins f)[b.val] = f b := by
  rw [← BitVec.getLsbD_eq_getElem b.isLt, getLsbD_ofPins]

theorem byte_ext {x y : Byte} (h : ∀ b : Pin, x.getLsbD b = y.getLsbD b) : x = y :=
  BitVec.eq_of_getLsbD_eq fun i hi => h ⟨i, hi⟩

theorem ofPins_eq_zero {f : Pin → Bool} (h : ∀ b, f b = false) : ofPins f = 0 :=
  byte_ext fun b => by simp [h]

end Sys2Proof
end

