-- ==== Sys2Proof/Laws/State.lean ====
section
/-! SUPPORT. One lemma per field per named update of the state, so that no later proof unfolds one. -/

namespace Sys2Proof.Machine

@[simp] theorem port_setPort_same (s : State) (p : PortId) (r : PortRegs) :
    (s.setPort p r).port p = r := by
  cases p <;> rfl

theorem port_setPort_ne (s : State) {p q : PortId} (r : PortRegs) (h : q ≠ p) :
    (s.setPort p r).port q = s.port q := by
  cases p <;> cases q <;> first | rfl | exact absurd rfl h

theorem port_setPort (s : State) (p q : PortId) (r : PortRegs) :
    (s.setPort p r).port q = if q = p then r else s.port q := by
  cases p <;> cases q <;> rfl

@[simp] theorem setPort_port (s : State) (p : PortId) : s.setPort p (s.port p) = s := by
  cases p <;> rfl

@[simp] theorem env_setPort (s : State) (p q : PortId) (r : PortRegs) :
    (s.setPort p r).env q = s.env q := by
  cases p <;> cases q <;> rfl

@[simp] theorem port_setEnv (s : State) (p q : PortId) (e : PinEnv) :
    (s.setEnv p e).port q = s.port q := by
  cases p <;> cases q <;> rfl

theorem env_setEnv (s : State) (p q : PortId) (e : PinEnv) :
    (s.setEnv p e).env q = if q = p then e else s.env q := by
  cases p <;> cases q <;> rfl

@[simp] theorem setPort_tctl (s : State) (p : PortId) (r : PortRegs) : (s.setPort p r).tctl = s.tctl := by
  cases p <;> rfl

@[simp] theorem setPort_tcctl (s : State) (p : PortId) (r : PortRegs) : (s.setPort p r).tcctl = s.tcctl := by
  cases p <;> rfl

@[simp] theorem setPort_tcnt (s : State) (p : PortId) (r : PortRegs) : (s.setPort p r).tcnt = s.tcnt := by
  cases p <;> rfl

@[simp] theorem setPort_tperiod (s : State) (p : PortId) (r : PortRegs) : (s.setPort p r).tperiod = s.tperiod := by
  cases p <;> rfl

@[simp] theorem setPort_tcompare (s : State) (p : PortId) (r : PortRegs) : (s.setPort p r).tcompare = s.tcompare := by
  cases p <;> rfl

@[simp] theorem setPort_clkrange (s : State) (p : PortId) (r : PortRegs) : (s.setPort p r).clkrange = s.clkrange := by
  cases p <;> rfl

@[simp] theorem setPort_clkdco (s : State) (p : PortId) (r : PortRegs) : (s.setPort p r).clkdco = s.clkdco := by
  cases p <;> rfl

@[simp] theorem setPort_wdt (s : State) (p : PortId) (r : PortRegs) : (s.setPort p r).wdt = s.wdt := by
  cases p <;> rfl

@[simp] theorem setPort_wdtGrace (s : State) (p : PortId) (r : PortRegs) : (s.setPort p r).wdtGrace = s.wdtGrace := by
  cases p <;> rfl

@[simp] theorem setPort_gie (s : State) (p : PortId) (r : PortRegs) : (s.setPort p r).gie = s.gie := by
  cases p <;> rfl

@[simp] theorem setPort_lpm (s : State) (p : PortId) (r : PortRegs) : (s.setPort p r).lpm = s.lpm := by
  cases p <;> rfl

@[simp] theorem setPort_pc (s : State) (p : PortId) (r : PortRegs) : (s.setPort p r).pc = s.pc := by
  cases p <;> rfl

@[simp] theorem setPort_inh (s : State) (p : PortId) (r : PortRegs) : (s.setPort p r).inh = s.inh := by
  cases p <;> rfl

@[simp] theorem setPort_saved (s : State) (p : PortId) (r : PortRegs) : (s.setPort p r).saved = s.saved := by
  cases p <;> rfl

@[simp] theorem setPort_fault (s : State) (p : PortId) (r : PortRegs) : (s.setPort p r).fault = s.fault := by
  cases p <;> rfl

@[simp] theorem setPort_env0 (s : State) (p : PortId) (r : PortRegs) : (s.setPort p r).env0 = s.env0 := by
  cases p <;> rfl

@[simp] theorem setPort_env1 (s : State) (p : PortId) (r : PortRegs) : (s.setPort p r).env1 = s.env1 := by
  cases p <;> rfl

@[simp] theorem setPort_rom (s : State) (p : PortId) (r : PortRegs) : (s.setPort p r).rom = s.rom := by
  cases p <;> rfl

@[simp] theorem setPort_params (s : State) (p : PortId) (r : PortRegs) : (s.setPort p r).params = s.params := by
  cases p <;> rfl

@[simp] theorem setPort_iesDraw (s : State) (p : PortId) (r : PortRegs) : (s.setPort p r).iesDraw = s.iesDraw := by
  cases p <;> rfl

@[simp] theorem setPort_agenda (s : State) (p : PortId) (r : PortRegs) : (s.setPort p r).agenda = s.agenda := by
  cases p <;> rfl

@[simp] theorem setPort_ticket (s : State) (p : PortId) (r : PortRegs) : (s.setPort p r).ticket = s.ticket := by
  cases p <;> rfl

@[simp] theorem setEnv_port0 (s : State) (p : PortId) (e : PinEnv) : (s.setEnv p e).port0 = s.port0 := by
  cases p <;> rfl

@[simp] theorem setEnv_port1 (s : State) (p : PortId) (e : PinEnv) : (s.setEnv p e).port1 = s.port1 := by
  cases p <;> rfl

@[simp] theorem setEnv_tctl (s : State) (p : PortId) (e : PinEnv) : (s.setEnv p e).tctl = s.tctl := by
  cases p <;> rfl

@[simp] theorem setEnv_tcctl (s : State) (p : PortId) (e : PinEnv) : (s.setEnv p e).tcctl = s.tcctl := by
  cases p <;> rfl

@[simp] theorem setEnv_tcnt (s : State) (p : PortId) (e : PinEnv) : (s.setEnv p e).tcnt = s.tcnt := by
  cases p <;> rfl

@[simp] theorem setEnv_tperiod (s : State) (p : PortId) (e : PinEnv) : (s.setEnv p e).tperiod = s.tperiod := by
  cases p <;> rfl

@[simp] theorem setEnv_tcompare (s : State) (p : PortId) (e : PinEnv) : (s.setEnv p e).tcompare = s.tcompare := by
  cases p <;> rfl

@[simp] theorem setEnv_clkrange (s : State) (p : PortId) (e : PinEnv) : (s.setEnv p e).clkrange = s.clkrange := by
  cases p <;> rfl

@[simp] theorem setEnv_clkdco (s : State) (p : PortId) (e : PinEnv) : (s.setEnv p e).clkdco = s.clkdco := by
  cases p <;> rfl

@[simp] theorem setEnv_wdt (s : State) (p : PortId) (e : PinEnv) : (s.setEnv p e).wdt = s.wdt := by
  cases p <;> rfl

@[simp] theorem setEnv_wdtGrace (s : State) (p : PortId) (e : PinEnv) : (s.setEnv p e).wdtGrace = s.wdtGrace := by
  cases p <;> rfl

@[simp] theorem setEnv_gie (s : State) (p : PortId) (e : PinEnv) : (s.setEnv p e).gie = s.gie := by
  cases p <;> rfl

@[simp] theorem setEnv_lpm (s : State) (p : PortId) (e : PinEnv) : (s.setEnv p e).lpm = s.lpm := by
  cases p <;> rfl

@[simp] theorem setEnv_pc (s : State) (p : PortId) (e : PinEnv) : (s.setEnv p e).pc = s.pc := by
  cases p <;> rfl

@[simp] theorem setEnv_inh (s : State) (p : PortId) (e : PinEnv) : (s.setEnv p e).inh = s.inh := by
  cases p <;> rfl

@[simp] theorem setEnv_saved (s : State) (p : PortId) (e : PinEnv) : (s.setEnv p e).saved = s.saved := by
  cases p <;> rfl

@[simp] theorem setEnv_fault (s : State) (p : PortId) (e : PinEnv) : (s.setEnv p e).fault = s.fault := by
  cases p <;> rfl

@[simp] theorem setEnv_rom (s : State) (p : PortId) (e : PinEnv) : (s.setEnv p e).rom = s.rom := by
  cases p <;> rfl

@[simp] theorem setEnv_params (s : State) (p : PortId) (e : PinEnv) : (s.setEnv p e).params = s.params := by
  cases p <;> rfl

@[simp] theorem setEnv_iesDraw (s : State) (p : PortId) (e : PinEnv) : (s.setEnv p e).iesDraw = s.iesDraw := by
  cases p <;> rfl

@[simp] theorem setEnv_agenda (s : State) (p : PortId) (e : PinEnv) : (s.setEnv p e).agenda = s.agenda := by
  cases p <;> rfl

@[simp] theorem setEnv_ticket (s : State) (p : PortId) (e : PinEnv) : (s.setEnv p e).ticket = s.ticket := by
  cases p <;> rfl

@[simp] theorem advancePc_port0 (s : State) : (advancePc s).port0 = s.port0 := rfl

@[simp] theorem advancePc_port1 (s : State) : (advancePc s).port1 = s.port1 := rfl

@[simp] theorem advancePc_tctl (s : State) : (advancePc s).tctl = s.tctl := rfl

@[simp] theorem advancePc_tcctl (s : State) : (advancePc s).tcctl = s.tcctl := rfl

@[simp] theorem advancePc_tcnt (s : State) : (advancePc s).tcnt = s.tcnt := rfl

@[simp] theorem advancePc_tperiod (s : State) : (advancePc s).tperiod = s.tperiod := rfl

@[simp] theorem advancePc_tcompare (s : State) : (advancePc s).tcompare = s.tcompare := rfl

@[simp] theorem advancePc_clkrange (s : State) : (advancePc s).clkrange = s.clkrange := rfl

@[simp] theorem advancePc_clkdco (s : State) : (advancePc s).clkdco = s.clkdco := rfl

@[simp] theorem advancePc_wdt (s : State) : (advancePc s).wdt = s.wdt := rfl

@[simp] theorem advancePc_wdtGrace (s : State) : (advancePc s).wdtGrace = s.wdtGrace := rfl

@[simp] theorem advancePc_gie (s : State) : (advancePc s).gie = s.gie := rfl

@[simp] theorem advancePc_lpm (s : State) : (advancePc s).lpm = s.lpm := rfl

@[simp] theorem advancePc_inh (s : State) : (advancePc s).inh = s.inh := rfl

@[simp] theorem advancePc_saved (s : State) : (advancePc s).saved = s.saved := rfl

@[simp] theorem advancePc_fault (s : State) : (advancePc s).fault = s.fault := rfl

@[simp] theorem advancePc_env0 (s : State) : (advancePc s).env0 = s.env0 := rfl

@[simp] theorem advancePc_env1 (s : State) : (advancePc s).env1 = s.env1 := rfl

@[simp] theorem advancePc_rom (s : State) : (advancePc s).rom = s.rom := rfl

@[simp] theorem advancePc_params (s : State) : (advancePc s).params = s.params := rfl

@[simp] theorem advancePc_iesDraw (s : State) : (advancePc s).iesDraw = s.iesDraw := rfl

@[simp] theorem advancePc_agenda (s : State) : (advancePc s).agenda = s.agenda := rfl

@[simp] theorem advancePc_ticket (s : State) : (advancePc s).ticket = s.ticket := rfl

@[simp] theorem advancePc_pc (s : State) : (advancePc s).pc = s.pc + 1 := rfl

@[simp] theorem returnFromHandler_port0 (s : State) : (returnFromHandler s).port0 = s.port0 := rfl

@[simp] theorem returnFromHandler_port1 (s : State) : (returnFromHandler s).port1 = s.port1 := rfl

@[simp] theorem returnFromHandler_tctl (s : State) : (returnFromHandler s).tctl = s.tctl := rfl

@[simp] theorem returnFromHandler_tcctl (s : State) : (returnFromHandler s).tcctl = s.tcctl := rfl

@[simp] theorem returnFromHandler_tcnt (s : State) : (returnFromHandler s).tcnt = s.tcnt := rfl

@[simp] theorem returnFromHandler_tperiod (s : State) : (returnFromHandler s).tperiod = s.tperiod := rfl

@[simp] theorem returnFromHandler_tcompare (s : State) : (returnFromHandler s).tcompare = s.tcompare := rfl

@[simp] theorem returnFromHandler_clkrange (s : State) : (returnFromHandler s).clkrange = s.clkrange := rfl

@[simp] theorem returnFromHandler_clkdco (s : State) : (returnFromHandler s).clkdco = s.clkdco := rfl

@[simp] theorem returnFromHandler_wdt (s : State) : (returnFromHandler s).wdt = s.wdt := rfl

@[simp] theorem returnFromHandler_wdtGrace (s : State) : (returnFromHandler s).wdtGrace = s.wdtGrace := rfl

@[simp] theorem returnFromHandler_saved (s : State) : (returnFromHandler s).saved = s.saved := rfl

@[simp] theorem returnFromHandler_fault (s : State) : (returnFromHandler s).fault = s.fault := rfl

@[simp] theorem returnFromHandler_env0 (s : State) : (returnFromHandler s).env0 = s.env0 := rfl

@[simp] theorem returnFromHandler_env1 (s : State) : (returnFromHandler s).env1 = s.env1 := rfl

@[simp] theorem returnFromHandler_rom (s : State) : (returnFromHandler s).rom = s.rom := rfl

@[simp] theorem returnFromHandler_params (s : State) : (returnFromHandler s).params = s.params := rfl

@[simp] theorem returnFromHandler_iesDraw (s : State) : (returnFromHandler s).iesDraw = s.iesDraw := rfl

@[simp] theorem returnFromHandler_agenda (s : State) : (returnFromHandler s).agenda = s.agenda := rfl

@[simp] theorem returnFromHandler_ticket (s : State) : (returnFromHandler s).ticket = s.ticket := rfl

@[simp] theorem returnFromHandler_pc (s : State) : (returnFromHandler s).pc = s.saved.pc := rfl

@[simp] theorem returnFromHandler_gie (s : State) : (returnFromHandler s).gie = s.saved.gie := rfl

@[simp] theorem returnFromHandler_lpm (s : State) : (returnFromHandler s).lpm = s.saved.lpm := rfl

@[simp] theorem returnFromHandler_inh (s : State) : (returnFromHandler s).inh = false := rfl

@[simp] theorem resetStep_port0 (d : ResetDraws) (s : State) : (resetStep d s).port0 = resetPort d.out0 d.ies0 := rfl

@[simp] theorem resetStep_port1 (d : ResetDraws) (s : State) : (resetStep d s).port1 = resetPort d.out1 d.ies1 := rfl

@[simp] theorem resetStep_tctl (d : ResetDraws) (s : State) : (resetStep d s).tctl = 0 := rfl

@[simp] theorem resetStep_tcctl (d : ResetDraws) (s : State) : (resetStep d s).tcctl = 0 := rfl

@[simp] theorem resetStep_tcnt (d : ResetDraws) (s : State) : (resetStep d s).tcnt = 0 := rfl

@[simp] theorem resetStep_tperiod (d : ResetDraws) (s : State) : (resetStep d s).tperiod = 0 := rfl

@[simp] theorem resetStep_tcompare (d : ResetDraws) (s : State) : (resetStep d s).tcompare = 0 := rfl

@[simp] theorem resetStep_clkrange (d : ResetDraws) (s : State) : (resetStep d s).clkrange = d.clkrange := rfl

@[simp] theorem resetStep_clkdco (d : ResetDraws) (s : State) : (resetStep d s).clkdco = d.clkdco := rfl

@[simp] theorem resetStep_wdt (d : ResetDraws) (s : State) : (resetStep d s).wdt = 0 := rfl

@[simp] theorem resetStep_wdtGrace (d : ResetDraws) (s : State) : (resetStep d s).wdtGrace = true := rfl

@[simp] theorem resetStep_gie (d : ResetDraws) (s : State) : (resetStep d s).gie = false := rfl

@[simp] theorem resetStep_lpm (d : ResetDraws) (s : State) : (resetStep d s).lpm = .active := rfl

@[simp] theorem resetStep_pc (d : ResetDraws) (s : State) : (resetStep d s).pc = 0 := rfl

@[simp] theorem resetStep_inh (d : ResetDraws) (s : State) : (resetStep d s).inh = false := rfl

@[simp] theorem resetStep_saved (d : ResetDraws) (s : State) : (resetStep d s).saved = d.saved := rfl

@[simp] theorem resetStep_fault (d : ResetDraws) (s : State) : (resetStep d s).fault = none := rfl

@[simp] theorem resetStep_env0 (d : ResetDraws) (s : State) : (resetStep d s).env0 = s.env0 := rfl

@[simp] theorem resetStep_env1 (d : ResetDraws) (s : State) : (resetStep d s).env1 = s.env1 := rfl

@[simp] theorem resetStep_rom (d : ResetDraws) (s : State) : (resetStep d s).rom = s.rom := rfl

@[simp] theorem resetStep_params (d : ResetDraws) (s : State) : (resetStep d s).params = s.params := rfl

@[simp] theorem resetStep_iesDraw (d : ResetDraws) (s : State) : (resetStep d s).iesDraw = s.iesDraw := rfl

@[simp] theorem resetStep_agenda (d : ResetDraws) (s : State) : (resetStep d s).agenda = s.agenda := rfl

@[simp] theorem resetStep_ticket (d : ResetDraws) (s : State) : (resetStep d s).ticket = s.ticket := rfl

@[simp] theorem useTicket_port0 (s : State) : (useTicket s).port0 = s.port0 := rfl

@[simp] theorem useTicket_port1 (s : State) : (useTicket s).port1 = s.port1 := rfl

@[simp] theorem useTicket_tctl (s : State) : (useTicket s).tctl = s.tctl := rfl

@[simp] theorem useTicket_tcctl (s : State) : (useTicket s).tcctl = s.tcctl := rfl

@[simp] theorem useTicket_tcnt (s : State) : (useTicket s).tcnt = s.tcnt := rfl

@[simp] theorem useTicket_tperiod (s : State) : (useTicket s).tperiod = s.tperiod := rfl

@[simp] theorem useTicket_tcompare (s : State) : (useTicket s).tcompare = s.tcompare := rfl

@[simp] theorem useTicket_clkrange (s : State) : (useTicket s).clkrange = s.clkrange := rfl

@[simp] theorem useTicket_clkdco (s : State) : (useTicket s).clkdco = s.clkdco := rfl

@[simp] theorem useTicket_wdt (s : State) : (useTicket s).wdt = s.wdt := rfl

@[simp] theorem useTicket_wdtGrace (s : State) : (useTicket s).wdtGrace = s.wdtGrace := rfl

@[simp] theorem useTicket_gie (s : State) : (useTicket s).gie = s.gie := rfl

@[simp] theorem useTicket_lpm (s : State) : (useTicket s).lpm = s.lpm := rfl

@[simp] theorem useTicket_pc (s : State) : (useTicket s).pc = s.pc := rfl

@[simp] theorem useTicket_inh (s : State) : (useTicket s).inh = s.inh := rfl

@[simp] theorem useTicket_saved (s : State) : (useTicket s).saved = s.saved := rfl

@[simp] theorem useTicket_fault (s : State) : (useTicket s).fault = s.fault := rfl

@[simp] theorem useTicket_env0 (s : State) : (useTicket s).env0 = s.env0 := rfl

@[simp] theorem useTicket_env1 (s : State) : (useTicket s).env1 = s.env1 := rfl

@[simp] theorem useTicket_rom (s : State) : (useTicket s).rom = s.rom := rfl

@[simp] theorem useTicket_params (s : State) : (useTicket s).params = s.params := rfl

@[simp] theorem useTicket_iesDraw (s : State) : (useTicket s).iesDraw = s.iesDraw := rfl

@[simp] theorem useTicket_agenda (s : State) : (useTicket s).agenda = s.agenda := rfl

@[simp] theorem useTicket_ticket (s : State) : (useTicket s).ticket = s.ticket + 1 := rfl

@[simp] theorem dropChoice_agenda (s : State) : (dropChoice s).agenda = s.agenda.tail := rfl

@[simp] theorem dropChoice_ticket (s : State) : (dropChoice s).ticket = s.ticket + 1 := rfl

@[simp] theorem dropChoice_port0 (s : State) : (dropChoice s).port0 = s.port0 := rfl

@[simp] theorem dropChoice_port1 (s : State) : (dropChoice s).port1 = s.port1 := rfl

@[simp] theorem dropChoice_tctl (s : State) : (dropChoice s).tctl = s.tctl := rfl

@[simp] theorem dropChoice_tcctl (s : State) : (dropChoice s).tcctl = s.tcctl := rfl

@[simp] theorem dropChoice_tcnt (s : State) : (dropChoice s).tcnt = s.tcnt := rfl

@[simp] theorem dropChoice_tperiod (s : State) : (dropChoice s).tperiod = s.tperiod := rfl

@[simp] theorem dropChoice_tcompare (s : State) : (dropChoice s).tcompare = s.tcompare := rfl

@[simp] theorem dropChoice_clkrange (s : State) : (dropChoice s).clkrange = s.clkrange := rfl

@[simp] theorem dropChoice_clkdco (s : State) : (dropChoice s).clkdco = s.clkdco := rfl

@[simp] theorem dropChoice_wdt (s : State) : (dropChoice s).wdt = s.wdt := rfl

@[simp] theorem dropChoice_wdtGrace (s : State) : (dropChoice s).wdtGrace = s.wdtGrace := rfl

@[simp] theorem dropChoice_gie (s : State) : (dropChoice s).gie = s.gie := rfl

@[simp] theorem dropChoice_lpm (s : State) : (dropChoice s).lpm = s.lpm := rfl

@[simp] theorem dropChoice_pc (s : State) : (dropChoice s).pc = s.pc := rfl

@[simp] theorem dropChoice_inh (s : State) : (dropChoice s).inh = s.inh := rfl

@[simp] theorem dropChoice_saved (s : State) : (dropChoice s).saved = s.saved := rfl

@[simp] theorem dropChoice_fault (s : State) : (dropChoice s).fault = s.fault := rfl

@[simp] theorem dropChoice_env0 (s : State) : (dropChoice s).env0 = s.env0 := rfl

@[simp] theorem dropChoice_env1 (s : State) : (dropChoice s).env1 = s.env1 := rfl

@[simp] theorem dropChoice_rom (s : State) : (dropChoice s).rom = s.rom := rfl

@[simp] theorem dropChoice_params (s : State) : (dropChoice s).params = s.params := rfl

@[simp] theorem dropChoice_iesDraw (s : State) : (dropChoice s).iesDraw = s.iesDraw := rfl

@[simp] theorem completeOperation_port0 (s : State) : (completeOperation s).port0 = s.port0 := by
  unfold completeOperation; split <;> rfl

@[simp] theorem completeOperation_port1 (s : State) : (completeOperation s).port1 = s.port1 := by
  unfold completeOperation; split <;> rfl

@[simp] theorem completeOperation_tctl (s : State) : (completeOperation s).tctl = s.tctl := by
  unfold completeOperation; split <;> rfl

@[simp] theorem completeOperation_tcctl (s : State) : (completeOperation s).tcctl = s.tcctl := by
  unfold completeOperation; split <;> rfl

@[simp] theorem completeOperation_tcnt (s : State) : (completeOperation s).tcnt = s.tcnt := by
  unfold completeOperation; split <;> rfl

@[simp] theorem completeOperation_tperiod (s : State) : (completeOperation s).tperiod = s.tperiod := by
  unfold completeOperation; split <;> rfl

@[simp] theorem completeOperation_tcompare (s : State) : (completeOperation s).tcompare = s.tcompare := by
  unfold completeOperation; split <;> rfl

@[simp] theorem completeOperation_clkrange (s : State) : (completeOperation s).clkrange = s.clkrange := by
  unfold completeOperation; split <;> rfl

@[simp] theorem completeOperation_clkdco (s : State) : (completeOperation s).clkdco = s.clkdco := by
  unfold completeOperation; split <;> rfl

@[simp] theorem completeOperation_wdt (s : State) : (completeOperation s).wdt = s.wdt := by
  unfold completeOperation; split <;> rfl

@[simp] theorem completeOperation_gie (s : State) : (completeOperation s).gie = s.gie := by
  unfold completeOperation; split <;> rfl

@[simp] theorem completeOperation_lpm (s : State) : (completeOperation s).lpm = s.lpm := by
  unfold completeOperation; split <;> rfl

@[simp] theorem completeOperation_pc (s : State) : (completeOperation s).pc = s.pc := by
  unfold completeOperation; split <;> rfl

@[simp] theorem completeOperation_inh (s : State) : (completeOperation s).inh = s.inh := by
  unfold completeOperation; split <;> rfl

@[simp] theorem completeOperation_saved (s : State) : (completeOperation s).saved = s.saved := by
  unfold completeOperation; split <;> rfl

@[simp] theorem completeOperation_fault (s : State) : (completeOperation s).fault = s.fault := by
  unfold completeOperation; split <;> rfl

@[simp] theorem completeOperation_env0 (s : State) : (completeOperation s).env0 = s.env0 := by
  unfold completeOperation; split <;> rfl

@[simp] theorem completeOperation_env1 (s : State) : (completeOperation s).env1 = s.env1 := by
  unfold completeOperation; split <;> rfl

@[simp] theorem completeOperation_rom (s : State) : (completeOperation s).rom = s.rom := by
  unfold completeOperation; split <;> rfl

@[simp] theorem completeOperation_params (s : State) : (completeOperation s).params = s.params := by
  unfold completeOperation; split <;> rfl

@[simp] theorem completeOperation_iesDraw (s : State) : (completeOperation s).iesDraw = s.iesDraw := by
  unfold completeOperation; split <;> rfl

@[simp] theorem completeOperation_agenda (s : State) : (completeOperation s).agenda = s.agenda := by
  unfold completeOperation; split <;> rfl

@[simp] theorem completeOperation_ticket (s : State) : (completeOperation s).ticket = s.ticket := by
  unfold completeOperation; split <;> rfl

theorem completeOperation_wdtGrace (s : State) :
    (completeOperation s).wdtGrace = (s.wdtGrace && s.fault.isSome) := by
  unfold completeOperation; cases h : s.fault <;> simp

@[simp] theorem withFault_port0 (f : Fault) (s : State) : (withFault f s).port0 = s.port0 := rfl

@[simp] theorem withFault_port1 (f : Fault) (s : State) : (withFault f s).port1 = s.port1 := rfl

@[simp] theorem withFault_tctl (f : Fault) (s : State) : (withFault f s).tctl = s.tctl := rfl

@[simp] theorem withFault_tcctl (f : Fault) (s : State) : (withFault f s).tcctl = s.tcctl := rfl

@[simp] theorem withFault_tcnt (f : Fault) (s : State) : (withFault f s).tcnt = s.tcnt := rfl

@[simp] theorem withFault_tperiod (f : Fault) (s : State) : (withFault f s).tperiod = s.tperiod := rfl

@[simp] theorem withFault_tcompare (f : Fault) (s : State) : (withFault f s).tcompare = s.tcompare := rfl

@[simp] theorem withFault_clkrange (f : Fault) (s : State) : (withFault f s).clkrange = s.clkrange := rfl

@[simp] theorem withFault_clkdco (f : Fault) (s : State) : (withFault f s).clkdco = s.clkdco := rfl

@[simp] theorem withFault_wdt (f : Fault) (s : State) : (withFault f s).wdt = s.wdt := rfl

@[simp] theorem withFault_wdtGrace (f : Fault) (s : State) : (withFault f s).wdtGrace = s.wdtGrace := rfl

@[simp] theorem withFault_gie (f : Fault) (s : State) : (withFault f s).gie = s.gie := rfl

@[simp] theorem withFault_lpm (f : Fault) (s : State) : (withFault f s).lpm = s.lpm := rfl

@[simp] theorem withFault_pc (f : Fault) (s : State) : (withFault f s).pc = s.pc := rfl

@[simp] theorem withFault_inh (f : Fault) (s : State) : (withFault f s).inh = s.inh := rfl

@[simp] theorem withFault_saved (f : Fault) (s : State) : (withFault f s).saved = s.saved := rfl

@[simp] theorem withFault_fault (f : Fault) (s : State) : (withFault f s).fault = some f := rfl

@[simp] theorem withFault_env0 (f : Fault) (s : State) : (withFault f s).env0 = s.env0 := rfl

@[simp] theorem withFault_env1 (f : Fault) (s : State) : (withFault f s).env1 = s.env1 := rfl

@[simp] theorem withFault_rom (f : Fault) (s : State) : (withFault f s).rom = s.rom := rfl

@[simp] theorem withFault_params (f : Fault) (s : State) : (withFault f s).params = s.params := rfl

@[simp] theorem withFault_iesDraw (f : Fault) (s : State) : (withFault f s).iesDraw = s.iesDraw := rfl

@[simp] theorem withFault_agenda (f : Fault) (s : State) : (withFault f s).agenda = s.agenda := rfl

@[simp] theorem withFault_ticket (f : Fault) (s : State) : (withFault f s).ticket = s.ticket := rfl

@[simp] theorem port_withFault (f : Fault) (s : State) (p : PortId) : (withFault f s).port p = s.port p := by
  cases p <;> rfl

@[simp] theorem env_withFault (f : Fault) (s : State) (p : PortId) : (withFault f s).env p = s.env p := by
  cases p <;> rfl

@[simp] theorem withPc_port0 (a : ProgAddr) (s : State) : (withPc a s).port0 = s.port0 := rfl

@[simp] theorem withPc_port1 (a : ProgAddr) (s : State) : (withPc a s).port1 = s.port1 := rfl

@[simp] theorem withPc_tctl (a : ProgAddr) (s : State) : (withPc a s).tctl = s.tctl := rfl

@[simp] theorem withPc_tcctl (a : ProgAddr) (s : State) : (withPc a s).tcctl = s.tcctl := rfl

@[simp] theorem withPc_tcnt (a : ProgAddr) (s : State) : (withPc a s).tcnt = s.tcnt := rfl

@[simp] theorem withPc_tperiod (a : ProgAddr) (s : State) : (withPc a s).tperiod = s.tperiod := rfl

@[simp] theorem withPc_tcompare (a : ProgAddr) (s : State) : (withPc a s).tcompare = s.tcompare := rfl

@[simp] theorem withPc_clkrange (a : ProgAddr) (s : State) : (withPc a s).clkrange = s.clkrange := rfl

@[simp] theorem withPc_clkdco (a : ProgAddr) (s : State) : (withPc a s).clkdco = s.clkdco := rfl

@[simp] theorem withPc_wdt (a : ProgAddr) (s : State) : (withPc a s).wdt = s.wdt := rfl

@[simp] theorem withPc_wdtGrace (a : ProgAddr) (s : State) : (withPc a s).wdtGrace = s.wdtGrace := rfl

@[simp] theorem withPc_gie (a : ProgAddr) (s : State) : (withPc a s).gie = s.gie := rfl

@[simp] theorem withPc_lpm (a : ProgAddr) (s : State) : (withPc a s).lpm = s.lpm := rfl

@[simp] theorem withPc_pc (a : ProgAddr) (s : State) : (withPc a s).pc = a := rfl

@[simp] theorem withPc_inh (a : ProgAddr) (s : State) : (withPc a s).inh = s.inh := rfl

@[simp] theorem withPc_saved (a : ProgAddr) (s : State) : (withPc a s).saved = s.saved := rfl

@[simp] theorem withPc_fault (a : ProgAddr) (s : State) : (withPc a s).fault = s.fault := rfl

@[simp] theorem withPc_env0 (a : ProgAddr) (s : State) : (withPc a s).env0 = s.env0 := rfl

@[simp] theorem withPc_env1 (a : ProgAddr) (s : State) : (withPc a s).env1 = s.env1 := rfl

@[simp] theorem withPc_rom (a : ProgAddr) (s : State) : (withPc a s).rom = s.rom := rfl

@[simp] theorem withPc_params (a : ProgAddr) (s : State) : (withPc a s).params = s.params := rfl

@[simp] theorem withPc_iesDraw (a : ProgAddr) (s : State) : (withPc a s).iesDraw = s.iesDraw := rfl

@[simp] theorem withPc_agenda (a : ProgAddr) (s : State) : (withPc a s).agenda = s.agenda := rfl

@[simp] theorem withPc_ticket (a : ProgAddr) (s : State) : (withPc a s).ticket = s.ticket := rfl

@[simp] theorem port_withPc (a : ProgAddr) (s : State) (p : PortId) : (withPc a s).port p = s.port p := by
  cases p <;> rfl

@[simp] theorem env_withPc (a : ProgAddr) (s : State) (p : PortId) : (withPc a s).env p = s.env p := by
  cases p <;> rfl

@[simp] theorem withIesDraw_port0 (d : Byte) (s : State) : (withIesDraw d s).port0 = s.port0 := rfl

@[simp] theorem withIesDraw_port1 (d : Byte) (s : State) : (withIesDraw d s).port1 = s.port1 := rfl

@[simp] theorem withIesDraw_tctl (d : Byte) (s : State) : (withIesDraw d s).tctl = s.tctl := rfl

@[simp] theorem withIesDraw_tcctl (d : Byte) (s : State) : (withIesDraw d s).tcctl = s.tcctl := rfl

@[simp] theorem withIesDraw_tcnt (d : Byte) (s : State) : (withIesDraw d s).tcnt = s.tcnt := rfl

@[simp] theorem withIesDraw_tperiod (d : Byte) (s : State) : (withIesDraw d s).tperiod = s.tperiod := rfl

@[simp] theorem withIesDraw_tcompare (d : Byte) (s : State) : (withIesDraw d s).tcompare = s.tcompare := rfl

@[simp] theorem withIesDraw_clkrange (d : Byte) (s : State) : (withIesDraw d s).clkrange = s.clkrange := rfl

@[simp] theorem withIesDraw_clkdco (d : Byte) (s : State) : (withIesDraw d s).clkdco = s.clkdco := rfl

@[simp] theorem withIesDraw_wdt (d : Byte) (s : State) : (withIesDraw d s).wdt = s.wdt := rfl

@[simp] theorem withIesDraw_wdtGrace (d : Byte) (s : State) : (withIesDraw d s).wdtGrace = s.wdtGrace := rfl

@[simp] theorem withIesDraw_gie (d : Byte) (s : State) : (withIesDraw d s).gie = s.gie := rfl

@[simp] theorem withIesDraw_lpm (d : Byte) (s : State) : (withIesDraw d s).lpm = s.lpm := rfl

@[simp] theorem withIesDraw_pc (d : Byte) (s : State) : (withIesDraw d s).pc = s.pc := rfl

@[simp] theorem withIesDraw_inh (d : Byte) (s : State) : (withIesDraw d s).inh = s.inh := rfl

@[simp] theorem withIesDraw_saved (d : Byte) (s : State) : (withIesDraw d s).saved = s.saved := rfl

@[simp] theorem withIesDraw_fault (d : Byte) (s : State) : (withIesDraw d s).fault = s.fault := rfl

@[simp] theorem withIesDraw_env0 (d : Byte) (s : State) : (withIesDraw d s).env0 = s.env0 := rfl

@[simp] theorem withIesDraw_env1 (d : Byte) (s : State) : (withIesDraw d s).env1 = s.env1 := rfl

@[simp] theorem withIesDraw_rom (d : Byte) (s : State) : (withIesDraw d s).rom = s.rom := rfl

@[simp] theorem withIesDraw_params (d : Byte) (s : State) : (withIesDraw d s).params = s.params := rfl

@[simp] theorem withIesDraw_iesDraw (d : Byte) (s : State) : (withIesDraw d s).iesDraw = d := rfl

@[simp] theorem withIesDraw_agenda (d : Byte) (s : State) : (withIesDraw d s).agenda = s.agenda := rfl

@[simp] theorem withIesDraw_ticket (d : Byte) (s : State) : (withIesDraw d s).ticket = s.ticket := rfl

@[simp] theorem port_withIesDraw (d : Byte) (s : State) (p : PortId) : (withIesDraw d s).port p = s.port p := by
  cases p <;> rfl

@[simp] theorem env_withIesDraw (d : Byte) (s : State) (p : PortId) : (withIesDraw d s).env p = s.env p := by
  cases p <;> rfl

@[simp] theorem port_useTicket (s : State) (p : PortId) : (useTicket s).port p = s.port p := by
  cases p <;> rfl

@[simp] theorem env_useTicket (s : State) (p : PortId) : (useTicket s).env p = s.env p := by
  cases p <;> rfl

@[simp] theorem port_dropChoice (s : State) (p : PortId) : (dropChoice s).port p = s.port p := by
  cases p <;> simp [State.port]

@[simp] theorem env_dropChoice (s : State) (p : PortId) : (dropChoice s).env p = s.env p := by
  cases p <;> simp [State.env]

@[simp] theorem port_completeOperation (s : State) (p : PortId) : (completeOperation s).port p = s.port p := by
  cases p <;> simp [State.port]

@[simp] theorem env_completeOperation (s : State) (p : PortId) : (completeOperation s).env p = s.env p := by
  cases p <;> simp [State.env]

@[simp] theorem port_returnFromHandler (s : State) (p : PortId) : (returnFromHandler s).port p = s.port p := by
  cases p <;> simp [State.port]

@[simp] theorem env_returnFromHandler (s : State) (p : PortId) : (returnFromHandler s).env p = s.env p := by
  cases p <;> simp [State.env]

@[simp] theorem env_resetStep (d : ResetDraws) (s : State) (p : PortId) : (resetStep d s).env p = s.env p := by
  cases p <;> rfl

end Sys2Proof.Machine
end

