-- ==== Sys2Proof/Laws/Operands.lean ====
section
/-! SUPPORT. The register map, and what a register read gives after a register write. -/

namespace Sys2Proof.Machine

@[simp] theorem writeReg_wdtGrace (s : State) (r : Reg) (v : Half) : (writeReg s r v).wdtGrace = s.wdtGrace := by
  cases r <;> simp [writeReg]

@[simp] theorem writeReg_gie (s : State) (r : Reg) (v : Half) : (writeReg s r v).gie = s.gie := by
  cases r <;> simp [writeReg]

@[simp] theorem writeReg_lpm (s : State) (r : Reg) (v : Half) : (writeReg s r v).lpm = s.lpm := by
  cases r <;> simp [writeReg]

@[simp] theorem writeReg_pc (s : State) (r : Reg) (v : Half) : (writeReg s r v).pc = s.pc := by
  cases r <;> simp [writeReg]

@[simp] theorem writeReg_inh (s : State) (r : Reg) (v : Half) : (writeReg s r v).inh = s.inh := by
  cases r <;> simp [writeReg]

@[simp] theorem writeReg_saved (s : State) (r : Reg) (v : Half) : (writeReg s r v).saved = s.saved := by
  cases r <;> simp [writeReg]

@[simp] theorem writeReg_fault (s : State) (r : Reg) (v : Half) : (writeReg s r v).fault = s.fault := by
  cases r <;> simp [writeReg]

@[simp] theorem writeReg_env0 (s : State) (r : Reg) (v : Half) : (writeReg s r v).env0 = s.env0 := by
  cases r <;> simp [writeReg]

@[simp] theorem writeReg_env1 (s : State) (r : Reg) (v : Half) : (writeReg s r v).env1 = s.env1 := by
  cases r <;> simp [writeReg]

@[simp] theorem writeReg_rom (s : State) (r : Reg) (v : Half) : (writeReg s r v).rom = s.rom := by
  cases r <;> simp [writeReg]

@[simp] theorem writeReg_params (s : State) (r : Reg) (v : Half) : (writeReg s r v).params = s.params := by
  cases r <;> simp [writeReg]

@[simp] theorem writeReg_iesDraw (s : State) (r : Reg) (v : Half) : (writeReg s r v).iesDraw = s.iesDraw := by
  cases r <;> simp [writeReg]

@[simp] theorem writeReg_agenda (s : State) (r : Reg) (v : Half) : (writeReg s r v).agenda = s.agenda := by
  cases r <;> simp [writeReg]

@[simp] theorem writeReg_ticket (s : State) (r : Reg) (v : Half) : (writeReg s r v).ticket = s.ticket := by
  cases r <;> simp [writeReg]

@[simp] theorem env_writeReg (s : State) (r : Reg) (v : Half) (p : PortId) :
    (writeReg s r v).env p = s.env p := by
  cases p <;> simp [State.env]

/-- The register map has no two registers at one address, and each at its own (20_memory.md R61). -/
theorem regAt_addr (r : Reg) : regAt r.addr = some r := by
  cases r with
  | portIn p | portOut p | portDir p | portRen p | portIes p | portSel p | portSel2 p | portIe p
  | portIfg p => cases p <;> decide
  | _ => decide

theorem setWidth_setWidth_of_lt {v : Half} (h : v.toNat < 0x100) :
    (v.setWidth 8).setWidth 16 = v := by
  apply BitVec.eq_of_toNat_eq
  simp only [BitVec.toNat_setWidth]
  omega

/-- Reading back the value just written to a writable register that it fits (20_memory.md R62, R69). -/
theorem readReg_writeReg_same (s : State) {r : Reg} {v : Half} (hr : r.readOnly = false)
    (hv : immediateFits r v = true) : readReg (writeReg s r v) r = v := by
  cases r <;>
    simp_all [readReg, writeReg, immediateFits, Reg.width, Reg.readOnly, setWidth_setWidth_of_lt]

/-- A register write leaves every other stored register as it was (20_memory.md R65). -/
theorem readReg_writeReg_ne (s : State) {r r' : Reg} (v : Half) (h : r' ≠ r)
    (hr : r'.readOnly = false) : readReg (writeReg s r v) r' = readReg s r' := by
  rcases r with ⟨_ | _⟩ | ⟨_ | _⟩ | ⟨_ | _⟩ | ⟨_ | _⟩ | ⟨_ | _⟩ | ⟨_ | _⟩ | ⟨_ | _⟩ | ⟨_ | _⟩ | ⟨_ | _⟩ |
      _ | _ | _ | _ | _ | _ | _ | _ <;>
    rcases r' with ⟨_ | _⟩ | ⟨_ | _⟩ | ⟨_ | _⟩ | ⟨_ | _⟩ | ⟨_ | _⟩ | ⟨_ | _⟩ | ⟨_ | _⟩ | ⟨_ | _⟩ | ⟨_ | _⟩ |
        _ | _ | _ | _ | _ | _ | _ | _ <;>
      first | rfl | exact absurd rfl h | exact absurd hr (by decide)

/-- An 8-bit register reads below 0x100. -/
theorem readReg_lt (s : State) {r : Reg} (h : r.width = 8) : (readReg s r).toNat < 0x100 := by
  cases r <;> simp_all [Reg.width, readReg] <;> omega

/-- The value read from a register fits that register. -/
theorem immediateFits_readReg (s : State) (r : Reg) : immediateFits r (readReg s r) = true := by
  unfold immediateFits
  rcases h : r.width == 16 with _ | _
  · have h8 : r.width = 8 := by cases r <;> simp_all [Reg.width]
    simpa using readReg_lt s h8
  · rfl

/-- Writing the value a register holds changes nothing. -/
theorem writeReg_readReg (s : State) (r : Reg) : writeReg s r (readReg s r) = s := by
  rcases r with ⟨_ | _⟩ | ⟨_ | _⟩ | ⟨_ | _⟩ | ⟨_ | _⟩ | ⟨_ | _⟩ | ⟨_ | _⟩ | ⟨_ | _⟩ | ⟨_ | _⟩ | ⟨_ | _⟩ |
      _ | _ | _ | _ | _ | _ | _ | _ <;>
    simp [writeReg, readReg, State.setPort, State.port]

end Sys2Proof.Machine
end

