-- ==== Sys2Proof/Laws/Flags.lean ====
section
/-! SUPPORT. Pin levels and the flags: what they depend on, and what edge evaluation changes. -/

namespace Sys2Proof.Machine

/-- A role depends on the Function-Select bits and the parameters alone
(44_port_pin_and_edge_logic.md R155). -/
theorem role_congr {s t : State} {p : PortId} (b : Pin) (hsel : (t.port p).sel = (s.port p).sel)
    (hsel2 : (t.port p).sel2 = (s.port p).sel2) (hp : t.params = s.params) :
    role t p b = role s p b := by
  unfold role isPwmPin
  rw [hsel, hsel2, hp]

theorem isDigitalInput_congr {s t : State} {p : PortId} (b : Pin)
    (hsel : (t.port p).sel = (s.port p).sel) (hsel2 : (t.port p).sel2 = (s.port p).sel2)
    (hdir : (t.port p).dir = (s.port p).dir) (hp : t.params = s.params) :
    isDigitalInput t p b = isDigitalInput s p b := by
  simp only [isDigitalInput, role_congr b hsel hsel2 hp, hdir]

theorem inputLevel_congr {s t : State} {p : PortId} (b : Pin)
    (hout : (t.port p).out = (s.port p).out) (hren : (t.port p).ren = (s.port p).ren)
    (he : t.env p = s.env p) : inputLevel t p b = inputLevel s p b := by
  simp only [inputLevel, hout, hren, he]

/-- A level depends on five registers of the port, its environment, the parameters and `TOUT`
(44_port_pin_and_edge_logic.md R158). -/
theorem level_congr {s t : State} {p : PortId} (b : Pin)
    (hout : (t.port p).out = (s.port p).out) (hdir : (t.port p).dir = (s.port p).dir)
    (hren : (t.port p).ren = (s.port p).ren) (hsel : (t.port p).sel = (s.port p).sel)
    (hsel2 : (t.port p).sel2 = (s.port p).sel2) (he : t.env p = s.env p)
    (hp : t.params = s.params) (ht : tout t = tout s) : level t p b = level s p b := by
  simp only [level, role_congr b hsel hsel2 hp, hdir, hout, inputLevel_congr b hout hren he, he, ht]

theorem tout_congr {s t : State} (hc : t.tcctl = s.tcctl) (hn : t.tcnt = s.tcnt)
    (hm : t.tcompare = s.tcompare) : tout t = tout s := by
  simp only [tout, hc, hn, hm]

/-- The level of a digital input is its input level: `TOUT` plays no part in it. -/
theorem level_of_isDigitalInput {s : State} {p : PortId} {b : Pin}
    (h : isDigitalInput s p b = true) : level s p b = inputLevel s p b := by
  unfold isDigitalInput at h
  simp only [Bool.and_eq_true, beq_iff_eq, Bool.not_eq_true'] at h
  simp only [level, h.1, h.2, Bool.false_eq_true, if_false]

/-- A flag is latched only where the level changes (44_port_pin_and_edge_logic.md R162, R163). -/
theorem latches_eq_false_of_level_eq {s t : State} {p : PortId} {b : Pin}
    (h : level t p b = level s p b) : latches s t p b = false := by
  simp [latches, armedEdge, risingEdge, fallingEdge, h]

theorem latches_eq_false_of_not_input {s t : State} {p : PortId} {b : Pin}
    (h : isDigitalInput s p b = false ∨ isDigitalInput t p b = false) :
    latches s t p b = false := by
  rcases h with h | h <;> simp [latches, h]

theorem latchedFlags_eq_zero {s t : State} {p : PortId} (h : ∀ b, latches s t p b = false) :
    latchedFlags s t p = 0 :=
  ofPins_eq_zero h

theorem getLsbD_latchedFlags (s t : State) (p : PortId) (b : Pin) :
    (latchedFlags s t p).getLsbD b.val = latches s t p b :=
  getLsbD_ofPins _ b

@[simp] theorem getElem_latchedFlags (s t : State) (p : PortId) (b : Pin) :
    (latchedFlags s t p)[b.val] = latches s t p b :=
  getElem_ofPins _ b

/-- Setting flags changes the `IFG` of its port and nothing else. -/
theorem port_setFlags (s : State) (p q : PortId) (m : Byte) :
    (setFlags s p m).port q =
      if q = p then { s.port p with ifg := (s.port p).ifg ||| m } else s.port q :=
  port_setPort s p q _

@[simp] theorem env_setFlags (s : State) (p q : PortId) (m : Byte) :
    (setFlags s p m).env q = s.env q :=
  env_setPort s p q _

@[simp] theorem setFlags_zero (s : State) (p : PortId) : setFlags s p 0 = s := by
  cases p <;> simp [setFlags, State.setPort, State.port]

/-- Edge evaluation changes the `IFG` of each port by the latched flags, and no other register
(44_port_pin_and_edge_logic.md R163). -/
theorem port_edgeEval (s0 s1 : State) (p : PortId) :
    (edgeEval s0 s1).port p =
      { s1.port p with ifg := (s1.port p).ifg ||| latchedFlags s0 s1 p } := by
  cases p <;> rfl

@[simp] theorem env_edgeEval (s0 s1 : State) (p : PortId) :
    (edgeEval s0 s1).env p = s1.env p := by
  cases p <;> rfl

/-- Where no pin latches, edge evaluation changes nothing. -/
theorem edgeEval_eq_self {s0 s1 : State} (h : ∀ p b, latches s0 s1 p b = false) :
    edgeEval s0 s1 = s1 := by
  unfold edgeEval
  rw [latchedFlags_eq_zero (h .p0), latchedFlags_eq_zero (h .p1), setFlags_zero, setFlags_zero]

@[simp] theorem edgeEval_self (s : State) : edgeEval s s = s :=
  edgeEval_eq_self fun _ _ => latches_eq_false_of_level_eq rfl

theorem env_iesSideEffect (r : Reg) (old new : Half) (s : State) (p : PortId) :
    (iesSideEffect r old new s).env p = s.env p := by
  unfold iesSideEffect
  split
  · split <;> simp
  · rfl

/-- The Edge-Select side effect changes the `IFG` of the port whose `IES` is written, by the drawn ones
of the bits that change, and nothing else (44_port_pin_and_edge_logic.md R167). -/
theorem port_iesSideEffect (r : Reg) (old new : Half) (s : State) (p : PortId) :
    (iesSideEffect r old new s).port p =
      if r = .portIes p ∧ s.params.iesWriteMaySetFlag = true then
        { s.port p with
          ifg := (s.port p).ifg ||| ((old.setWidth 8 ^^^ new.setWidth 8) &&& s.iesDraw) }
      else s.port p := by
  unfold iesSideEffect
  split
  · rename_i q
    by_cases hf : s.params.iesWriteMaySetFlag = true
    · simp only [hf, if_true, port_setFlags, Reg.portIes.injEq, and_true]
      cases p <;> cases q <;> rfl
    · simp [hf]
  · rename_i h
    rw [if_neg]
    rintro ⟨rfl, -⟩
    exact h p rfl

@[simp] theorem setFlags_tctl (s : State) (p : PortId) (m : Byte) :
    (setFlags s p m).tctl = s.tctl :=
  setPort_tctl s p _

@[simp] theorem setFlags_tcctl (s : State) (p : PortId) (m : Byte) :
    (setFlags s p m).tcctl = s.tcctl :=
  setPort_tcctl s p _

@[simp] theorem setFlags_tcnt (s : State) (p : PortId) (m : Byte) :
    (setFlags s p m).tcnt = s.tcnt :=
  setPort_tcnt s p _

@[simp] theorem setFlags_tperiod (s : State) (p : PortId) (m : Byte) :
    (setFlags s p m).tperiod = s.tperiod :=
  setPort_tperiod s p _

@[simp] theorem setFlags_tcompare (s : State) (p : PortId) (m : Byte) :
    (setFlags s p m).tcompare = s.tcompare :=
  setPort_tcompare s p _

@[simp] theorem setFlags_clkrange (s : State) (p : PortId) (m : Byte) :
    (setFlags s p m).clkrange = s.clkrange :=
  setPort_clkrange s p _

@[simp] theorem setFlags_clkdco (s : State) (p : PortId) (m : Byte) :
    (setFlags s p m).clkdco = s.clkdco :=
  setPort_clkdco s p _

@[simp] theorem setFlags_wdt (s : State) (p : PortId) (m : Byte) :
    (setFlags s p m).wdt = s.wdt :=
  setPort_wdt s p _

@[simp] theorem setFlags_wdtGrace (s : State) (p : PortId) (m : Byte) :
    (setFlags s p m).wdtGrace = s.wdtGrace :=
  setPort_wdtGrace s p _

@[simp] theorem setFlags_gie (s : State) (p : PortId) (m : Byte) :
    (setFlags s p m).gie = s.gie :=
  setPort_gie s p _

@[simp] theorem setFlags_lpm (s : State) (p : PortId) (m : Byte) :
    (setFlags s p m).lpm = s.lpm :=
  setPort_lpm s p _

@[simp] theorem setFlags_pc (s : State) (p : PortId) (m : Byte) :
    (setFlags s p m).pc = s.pc :=
  setPort_pc s p _

@[simp] theorem setFlags_inh (s : State) (p : PortId) (m : Byte) :
    (setFlags s p m).inh = s.inh :=
  setPort_inh s p _

@[simp] theorem setFlags_saved (s : State) (p : PortId) (m : Byte) :
    (setFlags s p m).saved = s.saved :=
  setPort_saved s p _

@[simp] theorem setFlags_fault (s : State) (p : PortId) (m : Byte) :
    (setFlags s p m).fault = s.fault :=
  setPort_fault s p _

@[simp] theorem setFlags_env0 (s : State) (p : PortId) (m : Byte) :
    (setFlags s p m).env0 = s.env0 :=
  setPort_env0 s p _

@[simp] theorem setFlags_env1 (s : State) (p : PortId) (m : Byte) :
    (setFlags s p m).env1 = s.env1 :=
  setPort_env1 s p _

@[simp] theorem setFlags_rom (s : State) (p : PortId) (m : Byte) :
    (setFlags s p m).rom = s.rom :=
  setPort_rom s p _

@[simp] theorem setFlags_params (s : State) (p : PortId) (m : Byte) :
    (setFlags s p m).params = s.params :=
  setPort_params s p _

@[simp] theorem setFlags_iesDraw (s : State) (p : PortId) (m : Byte) :
    (setFlags s p m).iesDraw = s.iesDraw :=
  setPort_iesDraw s p _

@[simp] theorem setFlags_agenda (s : State) (p : PortId) (m : Byte) :
    (setFlags s p m).agenda = s.agenda :=
  setPort_agenda s p _

@[simp] theorem setFlags_ticket (s : State) (p : PortId) (m : Byte) :
    (setFlags s p m).ticket = s.ticket :=
  setPort_ticket s p _

@[simp] theorem edgeEval_tctl (s0 s1 : State) : (edgeEval s0 s1).tctl = s1.tctl := rfl

@[simp] theorem edgeEval_tcctl (s0 s1 : State) : (edgeEval s0 s1).tcctl = s1.tcctl := rfl

@[simp] theorem edgeEval_tcnt (s0 s1 : State) : (edgeEval s0 s1).tcnt = s1.tcnt := rfl

@[simp] theorem edgeEval_tperiod (s0 s1 : State) : (edgeEval s0 s1).tperiod = s1.tperiod := rfl

@[simp] theorem edgeEval_tcompare (s0 s1 : State) : (edgeEval s0 s1).tcompare = s1.tcompare := rfl

@[simp] theorem edgeEval_clkrange (s0 s1 : State) : (edgeEval s0 s1).clkrange = s1.clkrange := rfl

@[simp] theorem edgeEval_clkdco (s0 s1 : State) : (edgeEval s0 s1).clkdco = s1.clkdco := rfl

@[simp] theorem edgeEval_wdt (s0 s1 : State) : (edgeEval s0 s1).wdt = s1.wdt := rfl

@[simp] theorem edgeEval_wdtGrace (s0 s1 : State) : (edgeEval s0 s1).wdtGrace = s1.wdtGrace := rfl

@[simp] theorem edgeEval_gie (s0 s1 : State) : (edgeEval s0 s1).gie = s1.gie := rfl

@[simp] theorem edgeEval_lpm (s0 s1 : State) : (edgeEval s0 s1).lpm = s1.lpm := rfl

@[simp] theorem edgeEval_pc (s0 s1 : State) : (edgeEval s0 s1).pc = s1.pc := rfl

@[simp] theorem edgeEval_inh (s0 s1 : State) : (edgeEval s0 s1).inh = s1.inh := rfl

@[simp] theorem edgeEval_saved (s0 s1 : State) : (edgeEval s0 s1).saved = s1.saved := rfl

@[simp] theorem edgeEval_fault (s0 s1 : State) : (edgeEval s0 s1).fault = s1.fault := rfl

@[simp] theorem edgeEval_env0 (s0 s1 : State) : (edgeEval s0 s1).env0 = s1.env0 := rfl

@[simp] theorem edgeEval_env1 (s0 s1 : State) : (edgeEval s0 s1).env1 = s1.env1 := rfl

@[simp] theorem edgeEval_rom (s0 s1 : State) : (edgeEval s0 s1).rom = s1.rom := rfl

@[simp] theorem edgeEval_params (s0 s1 : State) : (edgeEval s0 s1).params = s1.params := rfl

@[simp] theorem edgeEval_iesDraw (s0 s1 : State) : (edgeEval s0 s1).iesDraw = s1.iesDraw := rfl

@[simp] theorem edgeEval_agenda (s0 s1 : State) : (edgeEval s0 s1).agenda = s1.agenda := rfl

@[simp] theorem edgeEval_ticket (s0 s1 : State) : (edgeEval s0 s1).ticket = s1.ticket := rfl

@[simp] theorem iesSideEffect_tctl (r : Reg) (old new : Half) (s : State) :
    (iesSideEffect r old new s).tctl = s.tctl := by
  unfold iesSideEffect; split <;> [split; skip] <;> simp

@[simp] theorem iesSideEffect_tcctl (r : Reg) (old new : Half) (s : State) :
    (iesSideEffect r old new s).tcctl = s.tcctl := by
  unfold iesSideEffect; split <;> [split; skip] <;> simp

@[simp] theorem iesSideEffect_tcnt (r : Reg) (old new : Half) (s : State) :
    (iesSideEffect r old new s).tcnt = s.tcnt := by
  unfold iesSideEffect; split <;> [split; skip] <;> simp

@[simp] theorem iesSideEffect_tperiod (r : Reg) (old new : Half) (s : State) :
    (iesSideEffect r old new s).tperiod = s.tperiod := by
  unfold iesSideEffect; split <;> [split; skip] <;> simp

@[simp] theorem iesSideEffect_tcompare (r : Reg) (old new : Half) (s : State) :
    (iesSideEffect r old new s).tcompare = s.tcompare := by
  unfold iesSideEffect; split <;> [split; skip] <;> simp

@[simp] theorem iesSideEffect_clkrange (r : Reg) (old new : Half) (s : State) :
    (iesSideEffect r old new s).clkrange = s.clkrange := by
  unfold iesSideEffect; split <;> [split; skip] <;> simp

@[simp] theorem iesSideEffect_clkdco (r : Reg) (old new : Half) (s : State) :
    (iesSideEffect r old new s).clkdco = s.clkdco := by
  unfold iesSideEffect; split <;> [split; skip] <;> simp

@[simp] theorem iesSideEffect_wdt (r : Reg) (old new : Half) (s : State) :
    (iesSideEffect r old new s).wdt = s.wdt := by
  unfold iesSideEffect; split <;> [split; skip] <;> simp

@[simp] theorem iesSideEffect_wdtGrace (r : Reg) (old new : Half) (s : State) :
    (iesSideEffect r old new s).wdtGrace = s.wdtGrace := by
  unfold iesSideEffect; split <;> [split; skip] <;> simp

@[simp] theorem iesSideEffect_gie (r : Reg) (old new : Half) (s : State) :
    (iesSideEffect r old new s).gie = s.gie := by
  unfold iesSideEffect; split <;> [split; skip] <;> simp

@[simp] theorem iesSideEffect_lpm (r : Reg) (old new : Half) (s : State) :
    (iesSideEffect r old new s).lpm = s.lpm := by
  unfold iesSideEffect; split <;> [split; skip] <;> simp

@[simp] theorem iesSideEffect_pc (r : Reg) (old new : Half) (s : State) :
    (iesSideEffect r old new s).pc = s.pc := by
  unfold iesSideEffect; split <;> [split; skip] <;> simp

@[simp] theorem iesSideEffect_inh (r : Reg) (old new : Half) (s : State) :
    (iesSideEffect r old new s).inh = s.inh := by
  unfold iesSideEffect; split <;> [split; skip] <;> simp

@[simp] theorem iesSideEffect_saved (r : Reg) (old new : Half) (s : State) :
    (iesSideEffect r old new s).saved = s.saved := by
  unfold iesSideEffect; split <;> [split; skip] <;> simp

@[simp] theorem iesSideEffect_fault (r : Reg) (old new : Half) (s : State) :
    (iesSideEffect r old new s).fault = s.fault := by
  unfold iesSideEffect; split <;> [split; skip] <;> simp

@[simp] theorem iesSideEffect_env0 (r : Reg) (old new : Half) (s : State) :
    (iesSideEffect r old new s).env0 = s.env0 := by
  unfold iesSideEffect; split <;> [split; skip] <;> simp

@[simp] theorem iesSideEffect_env1 (r : Reg) (old new : Half) (s : State) :
    (iesSideEffect r old new s).env1 = s.env1 := by
  unfold iesSideEffect; split <;> [split; skip] <;> simp

@[simp] theorem iesSideEffect_rom (r : Reg) (old new : Half) (s : State) :
    (iesSideEffect r old new s).rom = s.rom := by
  unfold iesSideEffect; split <;> [split; skip] <;> simp

@[simp] theorem iesSideEffect_params (r : Reg) (old new : Half) (s : State) :
    (iesSideEffect r old new s).params = s.params := by
  unfold iesSideEffect; split <;> [split; skip] <;> simp

@[simp] theorem iesSideEffect_iesDraw (r : Reg) (old new : Half) (s : State) :
    (iesSideEffect r old new s).iesDraw = s.iesDraw := by
  unfold iesSideEffect; split <;> [split; skip] <;> simp

@[simp] theorem iesSideEffect_agenda (r : Reg) (old new : Half) (s : State) :
    (iesSideEffect r old new s).agenda = s.agenda := by
  unfold iesSideEffect; split <;> [split; skip] <;> simp

@[simp] theorem iesSideEffect_ticket (r : Reg) (old new : Half) (s : State) :
    (iesSideEffect r old new s).ticket = s.ticket := by
  unfold iesSideEffect; split <;> [split; skip] <;> simp

end Sys2Proof.Machine
end

