-- ==== Sys2Proof/Laws/Ops.lean ====
section
/-! SUPPORT. One lemma per shared operation that says everything it can do, and the one inversion lemma
for the execution of an operation and for a step. -/

namespace Sys2Proof.Machine

open Host (Outcome)

theorem raise_eq (f : Fault) (s : State) : raise f s = .next (withFault f s) := rfl

@[simp] theorem commitWrite_wdtGrace (r : Reg) (new : Half) (s : State) :
    (commitWrite r new s).wdtGrace = s.wdtGrace := by
  simp [commitWrite]

@[simp] theorem commitWrite_gie (r : Reg) (new : Half) (s : State) :
    (commitWrite r new s).gie = s.gie := by
  simp [commitWrite]

@[simp] theorem commitWrite_lpm (r : Reg) (new : Half) (s : State) :
    (commitWrite r new s).lpm = s.lpm := by
  simp [commitWrite]

@[simp] theorem commitWrite_inh (r : Reg) (new : Half) (s : State) :
    (commitWrite r new s).inh = s.inh := by
  simp [commitWrite]

@[simp] theorem commitWrite_saved (r : Reg) (new : Half) (s : State) :
    (commitWrite r new s).saved = s.saved := by
  simp [commitWrite]

@[simp] theorem commitWrite_fault (r : Reg) (new : Half) (s : State) :
    (commitWrite r new s).fault = s.fault := by
  simp [commitWrite]

@[simp] theorem commitWrite_env0 (r : Reg) (new : Half) (s : State) :
    (commitWrite r new s).env0 = s.env0 := by
  simp [commitWrite]

@[simp] theorem commitWrite_env1 (r : Reg) (new : Half) (s : State) :
    (commitWrite r new s).env1 = s.env1 := by
  simp [commitWrite]

@[simp] theorem commitWrite_rom (r : Reg) (new : Half) (s : State) :
    (commitWrite r new s).rom = s.rom := by
  simp [commitWrite]

@[simp] theorem commitWrite_params (r : Reg) (new : Half) (s : State) :
    (commitWrite r new s).params = s.params := by
  simp [commitWrite]

@[simp] theorem commitWrite_iesDraw (r : Reg) (new : Half) (s : State) :
    (commitWrite r new s).iesDraw = s.iesDraw := by
  simp [commitWrite]

@[simp] theorem commitWrite_agenda (r : Reg) (new : Half) (s : State) :
    (commitWrite r new s).agenda = s.agenda := by
  simp [commitWrite]

@[simp] theorem commitWrite_ticket (r : Reg) (new : Half) (s : State) :
    (commitWrite r new s).ticket = s.ticket := by
  simp [commitWrite]

theorem commitWrite_tctl (r : Reg) (new : Half) (s : State) :
    (commitWrite r new s).tctl = (writeReg s r new).tctl := by
  simp [commitWrite]

theorem commitWrite_tcctl (r : Reg) (new : Half) (s : State) :
    (commitWrite r new s).tcctl = (writeReg s r new).tcctl := by
  simp [commitWrite]

theorem commitWrite_tcnt (r : Reg) (new : Half) (s : State) :
    (commitWrite r new s).tcnt = (writeReg s r new).tcnt := by
  simp [commitWrite]

theorem commitWrite_tperiod (r : Reg) (new : Half) (s : State) :
    (commitWrite r new s).tperiod = (writeReg s r new).tperiod := by
  simp [commitWrite]

theorem commitWrite_tcompare (r : Reg) (new : Half) (s : State) :
    (commitWrite r new s).tcompare = (writeReg s r new).tcompare := by
  simp [commitWrite]

theorem commitWrite_clkrange (r : Reg) (new : Half) (s : State) :
    (commitWrite r new s).clkrange = (writeReg s r new).clkrange := by
  simp [commitWrite]

theorem commitWrite_clkdco (r : Reg) (new : Half) (s : State) :
    (commitWrite r new s).clkdco = (writeReg s r new).clkdco := by
  simp [commitWrite]

theorem commitWrite_wdt (r : Reg) (new : Half) (s : State) :
    (commitWrite r new s).wdt = (writeReg s r new).wdt := by
  simp [commitWrite]

@[simp] theorem commitWrite_pc (r : Reg) (new : Half) (s : State) :
    (commitWrite r new s).pc = s.pc + 1 := by
  simp [commitWrite]

@[simp] theorem port_advancePc (s : State) (p : PortId) : (advancePc s).port p = s.port p := by
  cases p <;> rfl

@[simp] theorem env_advancePc (s : State) (p : PortId) : (advancePc s).env p = s.env p := by
  cases p <;> rfl

@[simp] theorem env_commitWrite (r : Reg) (new : Half) (s : State) (p : PortId) :
    (commitWrite r new s).env p = s.env p := by
  simp [commitWrite, env_iesSideEffect]

/-- A completed write changes a port to what the write made of it, with the flags it latches and those
its Edge-Select side effect draws (40_register_ops.md R100). -/
theorem port_commitWrite (r : Reg) (new : Half) (s : State) (p : PortId) :
    (commitWrite r new s).port p =
      { (writeReg s r new).port p with
        ifg := (((writeReg s r new).port p).ifg ||| latchedFlags s (writeReg s r new) p) |||
          (if r = .portIes p ∧ s.params.iesWriteMaySetFlag = true then
            ((readReg s r).setWidth 8 ^^^ new.setWidth 8) &&& s.iesDraw else 0) } := by
  simp only [commitWrite, port_advancePc, port_iesSideEffect, port_edgeEval, edgeEval_params,
    writeReg_params, edgeEval_iesDraw, writeReg_iesDraw]
  split <;> simp

/-- A completed write leaves every stored register but the flags as the write alone made it. -/
theorem readReg_commitWrite (r : Reg) (new : Half) (s : State) {r' : Reg} (hro : r'.readOnly = false)
    (hn : ∀ p, r' ≠ .portIfg p) :
    readReg (commitWrite r new s) r' = readReg (writeReg s r new) r' := by
  rcases r' with p | p | p | p | p | p | p | p | p | _ | _ | _ | _ | _ | _ | _ | _
  · cases hro
  · show ((commitWrite r new s).port p).out.setWidth 16 = _; rw [port_commitWrite]; rfl
  · show ((commitWrite r new s).port p).dir.setWidth 16 = _; rw [port_commitWrite]; rfl
  · show ((commitWrite r new s).port p).ren.setWidth 16 = _; rw [port_commitWrite]; rfl
  · show ((commitWrite r new s).port p).ies.setWidth 16 = _; rw [port_commitWrite]; rfl
  · show ((commitWrite r new s).port p).sel.setWidth 16 = _; rw [port_commitWrite]; rfl
  · show ((commitWrite r new s).port p).sel2.setWidth 16 = _; rw [port_commitWrite]; rfl
  · show ((commitWrite r new s).port p).ie.setWidth 16 = _; rw [port_commitWrite]; rfl
  · exact absurd rfl (hn p)
  · exact commitWrite_tctl r new s
  · exact commitWrite_tcctl r new s
  · exact commitWrite_tcnt r new s
  · exact commitWrite_tperiod r new s
  · exact commitWrite_tcompare r new s
  · exact congrArg (BitVec.setWidth 16) (commitWrite_clkrange r new s)
  · exact congrArg (BitVec.setWidth 16) (commitWrite_clkdco r new s)
  · exact commitWrite_wdt r new s

/-- A completed write moves levels only through the register it wrote: the flags and `pc` play no part in
them. -/
theorem level_commitWrite (r : Reg) (new : Half) (s : State) (p : PortId) (b : Pin) :
    level (commitWrite r new s) p b = level (writeReg s r new) p b :=
  level_congr b (by rw [port_commitWrite]) (by rw [port_commitWrite]) (by rw [port_commitWrite])
    (by rw [port_commitWrite]) (by rw [port_commitWrite]) (by simp) (by simp)
    (tout_congr (commitWrite_tcctl r new s) (commitWrite_tcnt r new s) (commitWrite_tcompare r new s))

/-- A completed write changes a pin's role as a digital input only through the register it wrote. -/
theorem isDigitalInput_commitWrite (r : Reg) (new : Half) (s : State) (p : PortId) (b : Pin) :
    isDigitalInput (commitWrite r new s) p b = isDigitalInput (writeReg s r new) p b :=
  isDigitalInput_congr b (by rw [port_commitWrite]) (by rw [port_commitWrite])
    (by rw [port_commitWrite]) (by simp)

/-- Everything the common write path can answer: a fault with no other change, or the write
(40_register_ops.md R100). -/
theorem writePath_cases {a : RegAddr} {k : Half} {f : Half → Half → Half} {s t : State}
    (h : writePath a k f s = .next t) :
    (∃ e, t = withFault e s) ∨
      ∃ r, regAt a = some r ∧ r.readOnly = false ∧ immediateFits r k = true ∧
        legalValue r (f (readReg s r) k) = true ∧ s.pc ≠ 0x3F ∧
        t = commitWrite r (f (readReg s r) k) s := by
  unfold writePath at h
  split at h
  · exact .inl ⟨_, (Outcome.next.inj h).symm⟩
  rename_i r hr
  split at h
  · exact .inl ⟨_, (Outcome.next.inj h).symm⟩
  rename_i hro
  split at h
  · exact .inl ⟨_, (Outcome.next.inj h).symm⟩
  rename_i hfit
  split at h
  · exact .inl ⟨_, (Outcome.next.inj h).symm⟩
  rename_i hleg
  split at h
  · exact .inl ⟨_, (Outcome.next.inj h).symm⟩
  rename_i hpc
  exact .inr ⟨r, hr, by simpa using hro, by simpa using hfit, by simpa using hleg,
    by simpa [atLastAddress] using hpc, (Outcome.next.inj h).symm⟩

/-- The write path completes where its checks pass (40_register_ops.md R100). -/
theorem writePath_of_checks {a : RegAddr} {r : Reg} {k : Half} {f : Half → Half → Half} {s : State}
    (hr : regAt a = some r) (hro : r.readOnly = false) (hfit : immediateFits r k = true)
    (hleg : legalValue r (f (readReg s r) k) = true) (hpc : s.pc ≠ 0x3F) :
    writePath a k f s = .next (commitWrite r (f (readReg s r) k) s) := by
  have hlast : atLastAddress s = false := by simpa [atLastAddress] using hpc
  simp [writePath, hr, hro, hfit, hleg, hlast]

/-- `BIS` keeps a value that fits its register within it. -/
theorem immediateFits_setBits {r : Reg} {old k : Half} (ho : immediateFits r old = true)
    (hk : immediateFits r k = true) : immediateFits r (setBits old k) = true := by
  unfold immediateFits at *
  rcases h : r.width == 16 with _ | _
  · simp only [h, Bool.false_or, decide_eq_true_eq] at *
    have : (setBits old k).toNat < 2 ^ 8 := by
      simp only [setBits, BitVec.toNat_or]
      exact Nat.or_lt_two_pow ho hk
    omega
  · rfl

/-- `BIC` keeps a value that fits its register within it. -/
theorem immediateFits_clearBits {r : Reg} {old : Half} (k : Half)
    (ho : immediateFits r old = true) : immediateFits r (clearBits old k) = true := by
  unfold immediateFits at *
  rcases h : r.width == 16 with _ | _
  · simp only [h, Bool.false_or, decide_eq_true_eq] at *
    have : (clearBits old k).toNat ≤ old.toNat := by
      simp only [clearBits, BitVec.toNat_and]
      exact Nat.and_le_left
    omega
  · rfl

/-- A target inside the program store is the address `pc` then holds (41_control_ops.md R111, R112). -/
theorem toNat_ofInt_of_inProgramStore {t : Int} (h : inProgramStore t = true) :
    ((BitVec.ofInt 6 t).toNat : Int) = t := by
  simp only [inProgramStore, Bool.and_eq_true, decide_eq_true_eq] at h
  rw [BitVec.toNat_ofInt]
  omega

/-- Everything a jump can answer (41_control_ops.md R111, R112). -/
theorem jumpTo_cases {x : Int} {s t : State} (h : jumpTo x s = .next t) :
    (inProgramStore x = false ∧ t = withFault (.pcRange x) s) ∨
      (inProgramStore x = true ∧ t = withPc (BitVec.ofInt 6 x) s) := by
  unfold jumpTo at h
  split at h
  · rename_i hx
    exact .inr ⟨hx, (Outcome.next.inj h).symm⟩
  · rename_i hx
    exact .inl ⟨by simpa using hx, (Outcome.next.inj h).symm⟩

/-- Everything the execution of an operation can do: raise a fault and change nothing else, write a
register, move `pc`, sleep, or return (40_register_ops.md, 41_control_ops.md). -/
theorem exec_cases {i : Instr} {s t : State} (h : exec i s = .next t) :
    (∃ e, t = withFault e s) ∨
      (∃ r new, r.readOnly = false ∧ immediateFits r new = true ∧ legalValue r new = true ∧
        s.pc ≠ 0x3F ∧ t = commitWrite r new s ∧ ∃ a k, regAt a = some r ∧
          (i = .wr a k ∧ new = k ∨ i = .bis a k ∧ new = setBits (readReg s r) k ∨
            i = .bic a k ∧ new = clearBits (readReg s r) k)) ∨
      (∃ x, inProgramStore x = true ∧ t = withPc (BitVec.ofInt 6 x) s ∧
        ((∃ off, i = .br off ∧ x = branchTarget s off) ∨
          ∃ a b off r, i = .bbs a b off ∧ regAt a = some r ∧ b < r.width ∧
            ((readReg s r).getLsbD b = true ∧ x = branchTarget s off ∨
              (readReg s r).getLsbD b = false ∧ x = branchTarget s 0))) ∨
      (i = .sleep ∧ s.inh = false ∧ s.pc ≠ 0x3F ∧
        t = advancePc { s with gie := true, lpm := .wait }) ∨
      (i = .reti ∧ s.inh = true ∧ t = returnFromHandler s) := by
  cases i with
  | wr a k =>
    rcases writePath_cases h with ⟨e, rfl⟩ | ⟨r, hr, hro, hfit, hleg, hpc, rfl⟩
    · exact .inl ⟨e, rfl⟩
    · exact .inr (.inl ⟨r, k, hro, hfit, hleg, hpc, rfl, ⟨a, k, hr, .inl ⟨rfl, rfl⟩⟩⟩)
  | bis a k =>
    rcases writePath_cases h with ⟨e, rfl⟩ | ⟨r, hr, hro, hfit, hleg, hpc, rfl⟩
    · exact .inl ⟨e, rfl⟩
    · exact .inr (.inl ⟨r, _, hro, immediateFits_setBits (immediateFits_readReg s r) hfit, hleg, hpc,
        rfl, ⟨a, k, hr, .inr (.inl ⟨rfl, rfl⟩)⟩⟩)
  | bic a k =>
    rcases writePath_cases h with ⟨e, rfl⟩ | ⟨r, hr, hro, hfit, hleg, hpc, rfl⟩
    · exact .inl ⟨e, rfl⟩
    · exact .inr (.inl ⟨r, _, hro, immediateFits_clearBits k (immediateFits_readReg s r), hleg, hpc,
        rfl, ⟨a, k, hr, .inr (.inr ⟨rfl, rfl⟩)⟩⟩)
  | bbs a b off =>
    change execBbs a b off s = .next t at h
    unfold execBbs at h
    split at h
    · exact .inl ⟨_, (Outcome.next.inj h).symm⟩
    rename_i r hr
    split at h
    · exact .inl ⟨_, (Outcome.next.inj h).symm⟩
    rename_i hw
    split at h
    · rename_i hb
      rcases jumpTo_cases h with ⟨-, rfl⟩ | ⟨hx, rfl⟩
      · exact .inl ⟨_, rfl⟩
      · exact .inr (.inr (.inl ⟨_, hx, rfl,
          .inr ⟨a, b, off, r, rfl, hr, Nat.lt_of_not_le hw, .inl ⟨hb, rfl⟩⟩⟩))
    · rename_i hb
      rcases jumpTo_cases h with ⟨-, rfl⟩ | ⟨hx, rfl⟩
      · exact .inl ⟨_, rfl⟩
      · exact .inr (.inr (.inl ⟨_, hx, rfl,
          .inr ⟨a, b, off, r, rfl, hr, Nat.lt_of_not_le hw, .inr ⟨by simpa using hb, rfl⟩⟩⟩))
  | br off =>
    rcases jumpTo_cases h with ⟨-, rfl⟩ | ⟨hx, rfl⟩
    · exact .inl ⟨_, rfl⟩
    · exact .inr (.inr (.inl ⟨_, hx, rfl, .inl ⟨off, rfl, rfl⟩⟩))
  | sleep =>
    change execSleep s = .next t at h
    unfold execSleep at h
    split at h
    · exact .inl ⟨_, (Outcome.next.inj h).symm⟩
    rename_i hinh
    split at h
    · exact .inl ⟨_, (Outcome.next.inj h).symm⟩
    rename_i hpc
    exact .inr (.inr (.inr (.inl ⟨rfl, by simpa using hinh, by simpa [atLastAddress] using hpc,
      (Outcome.next.inj h).symm⟩)))
  | reti =>
    change execReti s = .next t at h
    unfold execReti at h
    split at h
    · exact .inl ⟨_, (Outcome.next.inj h).symm⟩
    rename_i hinh
    exact .inr (.inr (.inr (.inr ⟨rfl, by simpa using hinh, (Outcome.next.inj h).symm⟩)))

/-- Two states with the same port registers, environment, timer registers and parameters have the same
levels: `pc`, the modes and the model's own fields play no part (44_port_pin_and_edge_logic.md R158). -/
theorem level_eq_of_pins_eq {s t : State} (hp : ∀ p, t.port p = s.port p)
    (he : ∀ p, t.env p = s.env p) (hc : t.tcctl = s.tcctl) (hn : t.tcnt = s.tcnt)
    (hm : t.tcompare = s.tcompare) (hq : t.params = s.params) (p : PortId) (b : Pin) :
    level t p b = level s p b :=
  level_congr b (by rw [hp]) (by rw [hp]) (by rw [hp]) (by rw [hp]) (by rw [hp]) (he p) hq
    (tout_congr hc hn hm)

/-- Everything a step can do: nothing where its choice is not enabled, else what the choice performs
(70_reset_and_hazards.md R213, R214). -/
theorem step_cases {s t : State} (h : step s = .next t) :
    (enabled (nextChoice s) (dropChoice s) = false ∧ t = dropChoice s) ∨
      (enabled (nextChoice s) (dropChoice s) = true ∧
        perform (nextChoice s) (dropChoice s) = .next t) := by
  unfold step takeChoice at h
  split at h
  · rename_i he
    exact .inr ⟨he, h⟩
  · rename_i he
    exact .inl ⟨by simpa using he, (Outcome.next.inj h).symm⟩

/-- Everything a sequencer operation can do (41_control_ops.md R110). -/
theorem operationStep_cases {s t : State} (h : operationStep s = .next t) :
    ((∃ e, decode (fetch s) = .error e) ∧
        t = withFault (.illegalOp s.pc (fetch s)) s) ∨
      ∃ i u, decode (fetch s) = .ok i ∧ exec i s = .next u ∧ t = completeOperation u := by
  unfold operationStep at h
  split at h
  · rename_i e he
    exact .inl ⟨⟨e, he⟩, (Outcome.next.inj h).symm⟩
  · rename_i i hi
    unfold finish at h
    split at h
    · rename_i u hu
      exact .inr ⟨i, u, hi, hu, (Outcome.next.inj h).symm⟩
    · cases h
    · cases h

end Sys2Proof.Machine
end

