-- ==== Sys2Proof/Laws/Agents.lean ====
section
/-! SUPPORT. The lemmas of the agents' steps: the environment step, the tick and acceptance
(spec/44_port_pin_and_edge_logic.md R161, 43_timer_unit.md R142, 60_exceptions.md R178). -/

namespace Sys2Proof.Machine

open Host (Outcome)

@[simp] theorem applyChange_port0 (c : PinChange) (s : State) : (applyChange s c).port0 = s.port0 := by
  cases c <;> simp [applyChange]

@[simp] theorem applyChanges_port0 (cs : List PinChange) (s : State) :
    (applyChanges cs s).port0 = s.port0 := by
  induction cs generalizing s with
  | nil => rfl
  | cons c cs ih => exact (ih (applyChange s c)).trans (applyChange_port0 c s)

@[simp] theorem applyChange_port1 (c : PinChange) (s : State) : (applyChange s c).port1 = s.port1 := by
  cases c <;> simp [applyChange]

@[simp] theorem applyChanges_port1 (cs : List PinChange) (s : State) :
    (applyChanges cs s).port1 = s.port1 := by
  induction cs generalizing s with
  | nil => rfl
  | cons c cs ih => exact (ih (applyChange s c)).trans (applyChange_port1 c s)

@[simp] theorem applyChange_tctl (c : PinChange) (s : State) : (applyChange s c).tctl = s.tctl := by
  cases c <;> simp [applyChange]

@[simp] theorem applyChanges_tctl (cs : List PinChange) (s : State) :
    (applyChanges cs s).tctl = s.tctl := by
  induction cs generalizing s with
  | nil => rfl
  | cons c cs ih => exact (ih (applyChange s c)).trans (applyChange_tctl c s)

@[simp] theorem applyChange_tcctl (c : PinChange) (s : State) : (applyChange s c).tcctl = s.tcctl := by
  cases c <;> simp [applyChange]

@[simp] theorem applyChanges_tcctl (cs : List PinChange) (s : State) :
    (applyChanges cs s).tcctl = s.tcctl := by
  induction cs generalizing s with
  | nil => rfl
  | cons c cs ih => exact (ih (applyChange s c)).trans (applyChange_tcctl c s)

@[simp] theorem applyChange_tcnt (c : PinChange) (s : State) : (applyChange s c).tcnt = s.tcnt := by
  cases c <;> simp [applyChange]

@[simp] theorem applyChanges_tcnt (cs : List PinChange) (s : State) :
    (applyChanges cs s).tcnt = s.tcnt := by
  induction cs generalizing s with
  | nil => rfl
  | cons c cs ih => exact (ih (applyChange s c)).trans (applyChange_tcnt c s)

@[simp] theorem applyChange_tperiod (c : PinChange) (s : State) : (applyChange s c).tperiod = s.tperiod := by
  cases c <;> simp [applyChange]

@[simp] theorem applyChanges_tperiod (cs : List PinChange) (s : State) :
    (applyChanges cs s).tperiod = s.tperiod := by
  induction cs generalizing s with
  | nil => rfl
  | cons c cs ih => exact (ih (applyChange s c)).trans (applyChange_tperiod c s)

@[simp] theorem applyChange_tcompare (c : PinChange) (s : State) : (applyChange s c).tcompare = s.tcompare := by
  cases c <;> simp [applyChange]

@[simp] theorem applyChanges_tcompare (cs : List PinChange) (s : State) :
    (applyChanges cs s).tcompare = s.tcompare := by
  induction cs generalizing s with
  | nil => rfl
  | cons c cs ih => exact (ih (applyChange s c)).trans (applyChange_tcompare c s)

@[simp] theorem applyChange_clkrange (c : PinChange) (s : State) : (applyChange s c).clkrange = s.clkrange := by
  cases c <;> simp [applyChange]

@[simp] theorem applyChanges_clkrange (cs : List PinChange) (s : State) :
    (applyChanges cs s).clkrange = s.clkrange := by
  induction cs generalizing s with
  | nil => rfl
  | cons c cs ih => exact (ih (applyChange s c)).trans (applyChange_clkrange c s)

@[simp] theorem applyChange_clkdco (c : PinChange) (s : State) : (applyChange s c).clkdco = s.clkdco := by
  cases c <;> simp [applyChange]

@[simp] theorem applyChanges_clkdco (cs : List PinChange) (s : State) :
    (applyChanges cs s).clkdco = s.clkdco := by
  induction cs generalizing s with
  | nil => rfl
  | cons c cs ih => exact (ih (applyChange s c)).trans (applyChange_clkdco c s)

@[simp] theorem applyChange_wdt (c : PinChange) (s : State) : (applyChange s c).wdt = s.wdt := by
  cases c <;> simp [applyChange]

@[simp] theorem applyChanges_wdt (cs : List PinChange) (s : State) :
    (applyChanges cs s).wdt = s.wdt := by
  induction cs generalizing s with
  | nil => rfl
  | cons c cs ih => exact (ih (applyChange s c)).trans (applyChange_wdt c s)

@[simp] theorem applyChange_wdtGrace (c : PinChange) (s : State) : (applyChange s c).wdtGrace = s.wdtGrace := by
  cases c <;> simp [applyChange]

@[simp] theorem applyChanges_wdtGrace (cs : List PinChange) (s : State) :
    (applyChanges cs s).wdtGrace = s.wdtGrace := by
  induction cs generalizing s with
  | nil => rfl
  | cons c cs ih => exact (ih (applyChange s c)).trans (applyChange_wdtGrace c s)

@[simp] theorem applyChange_gie (c : PinChange) (s : State) : (applyChange s c).gie = s.gie := by
  cases c <;> simp [applyChange]

@[simp] theorem applyChanges_gie (cs : List PinChange) (s : State) :
    (applyChanges cs s).gie = s.gie := by
  induction cs generalizing s with
  | nil => rfl
  | cons c cs ih => exact (ih (applyChange s c)).trans (applyChange_gie c s)

@[simp] theorem applyChange_lpm (c : PinChange) (s : State) : (applyChange s c).lpm = s.lpm := by
  cases c <;> simp [applyChange]

@[simp] theorem applyChanges_lpm (cs : List PinChange) (s : State) :
    (applyChanges cs s).lpm = s.lpm := by
  induction cs generalizing s with
  | nil => rfl
  | cons c cs ih => exact (ih (applyChange s c)).trans (applyChange_lpm c s)

@[simp] theorem applyChange_pc (c : PinChange) (s : State) : (applyChange s c).pc = s.pc := by
  cases c <;> simp [applyChange]

@[simp] theorem applyChanges_pc (cs : List PinChange) (s : State) :
    (applyChanges cs s).pc = s.pc := by
  induction cs generalizing s with
  | nil => rfl
  | cons c cs ih => exact (ih (applyChange s c)).trans (applyChange_pc c s)

@[simp] theorem applyChange_inh (c : PinChange) (s : State) : (applyChange s c).inh = s.inh := by
  cases c <;> simp [applyChange]

@[simp] theorem applyChanges_inh (cs : List PinChange) (s : State) :
    (applyChanges cs s).inh = s.inh := by
  induction cs generalizing s with
  | nil => rfl
  | cons c cs ih => exact (ih (applyChange s c)).trans (applyChange_inh c s)

@[simp] theorem applyChange_saved (c : PinChange) (s : State) : (applyChange s c).saved = s.saved := by
  cases c <;> simp [applyChange]

@[simp] theorem applyChanges_saved (cs : List PinChange) (s : State) :
    (applyChanges cs s).saved = s.saved := by
  induction cs generalizing s with
  | nil => rfl
  | cons c cs ih => exact (ih (applyChange s c)).trans (applyChange_saved c s)

@[simp] theorem applyChange_fault (c : PinChange) (s : State) : (applyChange s c).fault = s.fault := by
  cases c <;> simp [applyChange]

@[simp] theorem applyChanges_fault (cs : List PinChange) (s : State) :
    (applyChanges cs s).fault = s.fault := by
  induction cs generalizing s with
  | nil => rfl
  | cons c cs ih => exact (ih (applyChange s c)).trans (applyChange_fault c s)

@[simp] theorem applyChange_rom (c : PinChange) (s : State) : (applyChange s c).rom = s.rom := by
  cases c <;> simp [applyChange]

@[simp] theorem applyChanges_rom (cs : List PinChange) (s : State) :
    (applyChanges cs s).rom = s.rom := by
  induction cs generalizing s with
  | nil => rfl
  | cons c cs ih => exact (ih (applyChange s c)).trans (applyChange_rom c s)

@[simp] theorem applyChange_params (c : PinChange) (s : State) : (applyChange s c).params = s.params := by
  cases c <;> simp [applyChange]

@[simp] theorem applyChanges_params (cs : List PinChange) (s : State) :
    (applyChanges cs s).params = s.params := by
  induction cs generalizing s with
  | nil => rfl
  | cons c cs ih => exact (ih (applyChange s c)).trans (applyChange_params c s)

@[simp] theorem applyChange_iesDraw (c : PinChange) (s : State) : (applyChange s c).iesDraw = s.iesDraw := by
  cases c <;> simp [applyChange]

@[simp] theorem applyChanges_iesDraw (cs : List PinChange) (s : State) :
    (applyChanges cs s).iesDraw = s.iesDraw := by
  induction cs generalizing s with
  | nil => rfl
  | cons c cs ih => exact (ih (applyChange s c)).trans (applyChange_iesDraw c s)

@[simp] theorem applyChange_agenda (c : PinChange) (s : State) : (applyChange s c).agenda = s.agenda := by
  cases c <;> simp [applyChange]

@[simp] theorem applyChanges_agenda (cs : List PinChange) (s : State) :
    (applyChanges cs s).agenda = s.agenda := by
  induction cs generalizing s with
  | nil => rfl
  | cons c cs ih => exact (ih (applyChange s c)).trans (applyChange_agenda c s)

@[simp] theorem applyChange_ticket (c : PinChange) (s : State) : (applyChange s c).ticket = s.ticket := by
  cases c <;> simp [applyChange]

@[simp] theorem applyChanges_ticket (cs : List PinChange) (s : State) :
    (applyChanges cs s).ticket = s.ticket := by
  induction cs generalizing s with
  | nil => rfl
  | cons c cs ih => exact (ih (applyChange s c)).trans (applyChange_ticket c s)

@[simp] theorem port_applyChanges (cs : List PinChange) (s : State) (p : PortId) :
    (applyChanges cs s).port p = s.port p := by
  cases p
  · exact applyChanges_port0 cs s
  · exact applyChanges_port1 cs s

/-- Edge evaluation leaves every port register but the flags. -/
theorem port_edgeEval_ifg (s0 s1 : State) (p : PortId) (b : Pin) :
    ((edgeEval s0 s1).port p).ifg.getLsbD b =
      ((s1.port p).ifg.getLsbD b || latches s0 s1 p b) := by
  rw [port_edgeEval]
  simp only [BitVec.getLsbD_or, getLsbD_latchedFlags]

/-- Edge evaluation moves no level: the flags play no part in one. -/
theorem level_edgeEval (s0 s1 : State) (p : PortId) (b : Pin) :
    level (edgeEval s0 s1) p b = level s1 p b :=
  level_congr b (by rw [port_edgeEval]) (by rw [port_edgeEval]) (by rw [port_edgeEval])
    (by rw [port_edgeEval]) (by rw [port_edgeEval]) (env_edgeEval s0 s1 p) (edgeEval_params s0 s1)
    (tout_congr (edgeEval_tcctl s0 s1) (edgeEval_tcnt s0 s1) (edgeEval_tcompare s0 s1))

/-- Edge evaluation changes no pin's role as a digital input. -/
theorem isDigitalInput_edgeEval (s0 s1 : State) (p : PortId) (b : Pin) :
    isDigitalInput (edgeEval s0 s1) p b = isDigitalInput s1 p b :=
  isDigitalInput_congr b (by rw [port_edgeEval]) (by rw [port_edgeEval]) (by rw [port_edgeEval])
    (edgeEval_params s0 s1)

@[simp] theorem environmentStep_tctl (cs : List PinChange) (s : State) :
    (environmentStep cs s).tctl = s.tctl := by
  simp [environmentStep]

@[simp] theorem environmentStep_tcctl (cs : List PinChange) (s : State) :
    (environmentStep cs s).tcctl = s.tcctl := by
  simp [environmentStep]

@[simp] theorem environmentStep_tcnt (cs : List PinChange) (s : State) :
    (environmentStep cs s).tcnt = s.tcnt := by
  simp [environmentStep]

@[simp] theorem environmentStep_tperiod (cs : List PinChange) (s : State) :
    (environmentStep cs s).tperiod = s.tperiod := by
  simp [environmentStep]

@[simp] theorem environmentStep_tcompare (cs : List PinChange) (s : State) :
    (environmentStep cs s).tcompare = s.tcompare := by
  simp [environmentStep]

@[simp] theorem environmentStep_clkrange (cs : List PinChange) (s : State) :
    (environmentStep cs s).clkrange = s.clkrange := by
  simp [environmentStep]

@[simp] theorem environmentStep_clkdco (cs : List PinChange) (s : State) :
    (environmentStep cs s).clkdco = s.clkdco := by
  simp [environmentStep]

@[simp] theorem environmentStep_wdt (cs : List PinChange) (s : State) :
    (environmentStep cs s).wdt = s.wdt := by
  simp [environmentStep]

@[simp] theorem environmentStep_wdtGrace (cs : List PinChange) (s : State) :
    (environmentStep cs s).wdtGrace = s.wdtGrace := by
  simp [environmentStep]

@[simp] theorem environmentStep_gie (cs : List PinChange) (s : State) :
    (environmentStep cs s).gie = s.gie := by
  simp [environmentStep]

@[simp] theorem environmentStep_lpm (cs : List PinChange) (s : State) :
    (environmentStep cs s).lpm = s.lpm := by
  simp [environmentStep]

@[simp] theorem environmentStep_pc (cs : List PinChange) (s : State) :
    (environmentStep cs s).pc = s.pc := by
  simp [environmentStep]

@[simp] theorem environmentStep_inh (cs : List PinChange) (s : State) :
    (environmentStep cs s).inh = s.inh := by
  simp [environmentStep]

@[simp] theorem environmentStep_saved (cs : List PinChange) (s : State) :
    (environmentStep cs s).saved = s.saved := by
  simp [environmentStep]

@[simp] theorem environmentStep_fault (cs : List PinChange) (s : State) :
    (environmentStep cs s).fault = s.fault := by
  simp [environmentStep]

@[simp] theorem environmentStep_rom (cs : List PinChange) (s : State) :
    (environmentStep cs s).rom = s.rom := by
  simp [environmentStep]

@[simp] theorem environmentStep_params (cs : List PinChange) (s : State) :
    (environmentStep cs s).params = s.params := by
  simp [environmentStep]

@[simp] theorem environmentStep_iesDraw (cs : List PinChange) (s : State) :
    (environmentStep cs s).iesDraw = s.iesDraw := by
  simp [environmentStep]

@[simp] theorem environmentStep_agenda (cs : List PinChange) (s : State) :
    (environmentStep cs s).agenda = s.agenda := by
  simp [environmentStep]

@[simp] theorem environmentStep_ticket (cs : List PinChange) (s : State) :
    (environmentStep cs s).ticket = s.ticket := by
  simp [environmentStep]

@[simp] theorem timerTick_tctl (s : State) : (timerTick s).tctl = s.tctl := rfl

@[simp] theorem timerTick_tcctl (s : State) : (timerTick s).tcctl = s.tcctl := rfl

@[simp] theorem timerTick_tperiod (s : State) : (timerTick s).tperiod = s.tperiod := rfl

@[simp] theorem timerTick_tcompare (s : State) : (timerTick s).tcompare = s.tcompare := rfl

@[simp] theorem timerTick_clkrange (s : State) : (timerTick s).clkrange = s.clkrange := rfl

@[simp] theorem timerTick_clkdco (s : State) : (timerTick s).clkdco = s.clkdco := rfl

@[simp] theorem timerTick_wdt (s : State) : (timerTick s).wdt = s.wdt := rfl

@[simp] theorem timerTick_wdtGrace (s : State) : (timerTick s).wdtGrace = s.wdtGrace := rfl

@[simp] theorem timerTick_gie (s : State) : (timerTick s).gie = s.gie := rfl

@[simp] theorem timerTick_lpm (s : State) : (timerTick s).lpm = s.lpm := rfl

@[simp] theorem timerTick_pc (s : State) : (timerTick s).pc = s.pc := rfl

@[simp] theorem timerTick_inh (s : State) : (timerTick s).inh = s.inh := rfl

@[simp] theorem timerTick_saved (s : State) : (timerTick s).saved = s.saved := rfl

@[simp] theorem timerTick_fault (s : State) : (timerTick s).fault = s.fault := rfl

@[simp] theorem timerTick_env0 (s : State) : (timerTick s).env0 = s.env0 := rfl

@[simp] theorem timerTick_env1 (s : State) : (timerTick s).env1 = s.env1 := rfl

@[simp] theorem timerTick_rom (s : State) : (timerTick s).rom = s.rom := rfl

@[simp] theorem timerTick_params (s : State) : (timerTick s).params = s.params := rfl

@[simp] theorem timerTick_iesDraw (s : State) : (timerTick s).iesDraw = s.iesDraw := rfl

@[simp] theorem timerTick_agenda (s : State) : (timerTick s).agenda = s.agenda := rfl

@[simp] theorem timerTick_ticket (s : State) : (timerTick s).ticket = s.ticket := rfl

@[simp] theorem timerTick_tcnt (s : State) : (timerTick s).tcnt = nextCount s := rfl

/-- A tick counts and does nothing else: the level of a digital input does not depend on the timer, so it
latches no flag (43_timer_unit.md R142). -/
theorem timerTick_eq (s : State) : timerTick s = { s with tcnt := nextCount s } := by
  apply edgeEval_eq_self
  intro p b
  have hr : isDigitalInput { s with tcnt := nextCount s } p b = isDigitalInput s p b := by
    cases p <;> rfl
  by_cases hi : isDigitalInput s p b = true
  · apply latches_eq_false_of_level_eq
    rw [level_of_isDigitalInput hi, level_of_isDigitalInput (hr.trans hi)]
    cases p <;> rfl
  · exact latches_eq_false_of_not_input (.inl (by simpa using hi))

@[simp] theorem port_timerTick (s : State) (p : PortId) : (timerTick s).port p = s.port p := by
  rw [timerTick_eq]
  cases p <;> rfl

@[simp] theorem env_timerTick (s : State) (p : PortId) : (timerTick s).env p = s.env p := by
  cases p <;> rfl

/-- Acceptance changes the modes, the saved context, `pc` and, without a vector, `FAULT`
(60_exceptions.md R178, R179). -/
theorem acceptInterrupt_cases (p : PortId) (s : State) :
    (s.params.vec p = none ∧ acceptInterrupt p s = withFault (.noVector p) s) ∨
      ∃ v, s.params.vec p = some v ∧ acceptInterrupt p s =
        { s with saved := ⟨s.pc, s.gie, s.lpm⟩, gie := false, lpm := .active, inh := true, pc := v } := by
  unfold acceptInterrupt
  cases s.params.vec p with
  | none => exact .inl ⟨rfl, rfl⟩
  | some v => exact .inr ⟨v, rfl, rfl⟩

@[simp] theorem acceptInterrupt_port0 (p : PortId) (s : State) : (acceptInterrupt p s).port0 = s.port0 := by
  unfold acceptInterrupt; split <;> rfl

@[simp] theorem acceptInterrupt_port1 (p : PortId) (s : State) : (acceptInterrupt p s).port1 = s.port1 := by
  unfold acceptInterrupt; split <;> rfl

@[simp] theorem acceptInterrupt_tctl (p : PortId) (s : State) : (acceptInterrupt p s).tctl = s.tctl := by
  unfold acceptInterrupt; split <;> rfl

@[simp] theorem acceptInterrupt_tcctl (p : PortId) (s : State) : (acceptInterrupt p s).tcctl = s.tcctl := by
  unfold acceptInterrupt; split <;> rfl

@[simp] theorem acceptInterrupt_tcnt (p : PortId) (s : State) : (acceptInterrupt p s).tcnt = s.tcnt := by
  unfold acceptInterrupt; split <;> rfl

@[simp] theorem acceptInterrupt_tperiod (p : PortId) (s : State) : (acceptInterrupt p s).tperiod = s.tperiod := by
  unfold acceptInterrupt; split <;> rfl

@[simp] theorem acceptInterrupt_tcompare (p : PortId) (s : State) : (acceptInterrupt p s).tcompare = s.tcompare := by
  unfold acceptInterrupt; split <;> rfl

@[simp] theorem acceptInterrupt_clkrange (p : PortId) (s : State) : (acceptInterrupt p s).clkrange = s.clkrange := by
  unfold acceptInterrupt; split <;> rfl

@[simp] theorem acceptInterrupt_clkdco (p : PortId) (s : State) : (acceptInterrupt p s).clkdco = s.clkdco := by
  unfold acceptInterrupt; split <;> rfl

@[simp] theorem acceptInterrupt_wdt (p : PortId) (s : State) : (acceptInterrupt p s).wdt = s.wdt := by
  unfold acceptInterrupt; split <;> rfl

@[simp] theorem acceptInterrupt_wdtGrace (p : PortId) (s : State) : (acceptInterrupt p s).wdtGrace = s.wdtGrace := by
  unfold acceptInterrupt; split <;> rfl

@[simp] theorem acceptInterrupt_env0 (p : PortId) (s : State) : (acceptInterrupt p s).env0 = s.env0 := by
  unfold acceptInterrupt; split <;> rfl

@[simp] theorem acceptInterrupt_env1 (p : PortId) (s : State) : (acceptInterrupt p s).env1 = s.env1 := by
  unfold acceptInterrupt; split <;> rfl

@[simp] theorem acceptInterrupt_rom (p : PortId) (s : State) : (acceptInterrupt p s).rom = s.rom := by
  unfold acceptInterrupt; split <;> rfl

@[simp] theorem acceptInterrupt_params (p : PortId) (s : State) : (acceptInterrupt p s).params = s.params := by
  unfold acceptInterrupt; split <;> rfl

@[simp] theorem acceptInterrupt_iesDraw (p : PortId) (s : State) : (acceptInterrupt p s).iesDraw = s.iesDraw := by
  unfold acceptInterrupt; split <;> rfl

@[simp] theorem acceptInterrupt_agenda (p : PortId) (s : State) : (acceptInterrupt p s).agenda = s.agenda := by
  unfold acceptInterrupt; split <;> rfl

@[simp] theorem acceptInterrupt_ticket (p : PortId) (s : State) : (acceptInterrupt p s).ticket = s.ticket := by
  unfold acceptInterrupt; split <;> rfl

@[simp] theorem port_acceptInterrupt (p q : PortId) (s : State) :
    (acceptInterrupt p s).port q = s.port q := by
  cases q
  · exact acceptInterrupt_port0 p s
  · exact acceptInterrupt_port1 p s

@[simp] theorem env_acceptInterrupt (p q : PortId) (s : State) :
    (acceptInterrupt p s).env q = s.env q := by
  cases q
  · exact acceptInterrupt_env0 p s
  · exact acceptInterrupt_env1 p s

/-- Everything a step can do, by the kind of its choice: nothing but using the choice up where it is not
enabled, else the operation, acceptance, tick, environment step or reset it names
(70_reset_and_hazards.md R213, R214). -/
theorem step_kinds {s t : State} (h : step s = .next t) :
    t = dropChoice s ∨
      (∃ d, nextChoice s = .operation d ∧ s.fault = none ∧ s.lpm = .active ∧
        operationStep (withIesDraw d (dropChoice s)) = .next t) ∨
      (∃ p, nextChoice s = .acceptance p ∧ s.fault = none ∧ s.gie = true ∧ requests s p = true ∧
        t = acceptInterrupt p (dropChoice s)) ∨
      (nextChoice s = .tick ∧ s.tctl = 0x0210 ∧ t = timerTick (dropChoice s)) ∨
      (∃ cs, nextChoice s = .environment cs ∧ t = environmentStep cs (dropChoice s)) ∨
      (∃ d, (nextChoice s = .watchdogExpiry d ∨ nextChoice s = .powerOnReset d) ∧
        t = resetStep d (dropChoice s)) := by
  rcases step_cases h with ⟨-, h⟩ | ⟨he, h⟩
  · exact .inl h
  right
  cases hc : nextChoice s with
  | operation d =>
    rw [hc] at he h
    simp [enabled, operationEnabled] at he
    exact .inl ⟨d, rfl, he.1, he.2, h⟩
  | acceptance p =>
    rw [hc] at he h
    simp [enabled, acceptanceEnabled, requests] at he
    exact .inr (.inl ⟨p, rfl, he.1.1, he.1.2, by simpa [requests] using he.2,
      (Outcome.next.inj h).symm⟩)
  | tick =>
    rw [hc] at he h
    simp [enabled, tickEnabled, tctlRunning] at he
    exact .inr (.inr (.inl ⟨rfl, he, (Outcome.next.inj h).symm⟩))
  | environment cs =>
    rw [hc] at h
    exact .inr (.inr (.inr (.inl ⟨cs, rfl, (Outcome.next.inj h).symm⟩)))
  | watchdogExpiry d =>
    rw [hc] at h
    exact .inr (.inr (.inr (.inr ⟨d, .inl rfl, (Outcome.next.inj h).symm⟩)))
  | powerOnReset d =>
    rw [hc] at h
    exact .inr (.inr (.inr (.inr ⟨d, .inr rfl, (Outcome.next.inj h).symm⟩)))

/-- Using a ticket up enables and disables nothing. -/
@[simp] theorem enabled_useTicket (c : Choice) (s : State) :
    enabled c (useTicket s) = enabled c s := by
  cases c with
  | acceptance p => simp only [enabled, acceptanceEnabled, requests, port_useTicket, useTicket_gie,
      useTicket_fault]
  | _ => rfl

/-- An enabled step is the machine's step where its choice heads the agenda (70_reset_and_hazards.md
R214), so that `step_kinds` speaks of the steps of runs too. -/
theorem step_of_perform {c : Choice} {s t : State} (he : enabled c s = true)
    (h : perform c (useTicket s) = .next t) :
    step { s with agenda := c :: s.agenda } = .next t := by
  have hd : dropChoice { s with agenda := c :: s.agenda } = useTicket s := rfl
  rw [step, hd]
  change takeChoice c (useTicket s) = .next t
  rw [takeChoice, if_pos ((enabled_useTicket c s).trans he), h]

end Sys2Proof.Machine
end

