-- ==== Sys2Proof/Laws/Decode.lean ====
section
/-! SUPPORT. The fields of the words the encoder builds (spec/30_encoding.md R80 to R83). -/

namespace Sys2Proof

theorem opField_formatR (op : BitVec 4) (reg : RegAddr) (x : Half) :
    opField (formatR op reg x) = op := by
  unfold opField formatR
  ext i hi
  simp
  grind

theorem regField_formatR (op : BitVec 4) (reg : RegAddr) (x : Half) :
    regField (formatR op reg x) = reg := by
  unfold regField formatR
  ext i hi
  simp
  grind

theorem subField_formatR (op : BitVec 4) (reg : RegAddr) (x : Half) :
    subField (formatR op reg x) = 0 := by
  unfold subField formatR
  ext i hi
  simp
  grind

theorem immField_formatR (op : BitVec 4) (reg : RegAddr) (x : Half) :
    immField (formatR op reg x) = x := by
  unfold immField formatR
  ext i hi
  simp
  grind

theorem opField_formatB (op : BitVec 4) (reg : RegAddr) (b : BitVec 4) (x : BitVec 8) :
    opField (formatB op reg b x) = op := by
  unfold opField formatB
  ext i hi
  simp
  grind

theorem regField_formatB (op : BitVec 4) (reg : RegAddr) (b : BitVec 4) (x : BitVec 8) :
    regField (formatB op reg b x) = reg := by
  unfold regField formatB
  ext i hi
  simp
  grind

theorem subField_formatB (op : BitVec 4) (reg : RegAddr) (b : BitVec 4) (x : BitVec 8) :
    subField (formatB op reg b x) = b := by
  unfold subField formatB
  ext i hi
  simp
  grind

theorem midField_formatB (op : BitVec 4) (reg : RegAddr) (b : BitVec 4) (x : BitVec 8) :
    midField (formatB op reg b x) = 0 := by
  unfold midField formatB
  ext i hi
  simp
  grind

theorem offField_formatB (op : BitVec 4) (reg : RegAddr) (b : BitVec 4) (x : BitVec 8) :
    offField (formatB op reg b x) = x := by
  unfold offField formatB
  ext i hi
  simp
  grind

theorem brZeroField_formatB (op : BitVec 4) (x : BitVec 8) :
    brZeroField (formatB op 0 0 x) = 0 := by
  unfold brZeroField formatB
  ext i hi
  simp
  grind

end Sys2Proof
end

