-- ==== Sys2Proof/Laws/Memory.lean ====
section
/-! SUPPORT. The program store: read after write, and that a write keeps the canonical form. -/

namespace Sys2Proof.Machine

theorem Memory.read_insert_same (m : Memory) (a : Nat) (w : OpWord) :
    Memory.read (Memory.insert m a w) a = w := by
  induction m with
  | nil => simp [Memory.insert, Memory.read]
  | cons c m ih =>
    obtain ⟨k, v⟩ := c
    unfold Memory.insert
    split
    · simp [Memory.read]
    · split
      · simp [Memory.read]
      · rename_i h
        simp [Memory.read, h, ih]

theorem Memory.read_insert_ne (m : Memory) {a b : Nat} (w : OpWord) (h : b ≠ a) :
    Memory.read (Memory.insert m a w) b = Memory.read m b := by
  induction m with
  | nil => simp [Memory.insert, Memory.read, h]
  | cons c m ih =>
    obtain ⟨k, v⟩ := c
    unfold Memory.insert
    split
    · simp [Memory.read, h]
    · split
      · rename_i e
        subst e
        simp [Memory.read, h]
      · simp only [Memory.read, ih]

theorem Memory.read_erase_ne (m : Memory) {a b : Nat} (h : b ≠ a) :
    Memory.read (Memory.erase m a) b = Memory.read m b := by
  induction m with
  | nil => rfl
  | cons c m ih =>
    obtain ⟨k, v⟩ := c
    unfold Memory.erase
    split
    · rename_i e
      subst e
      simp [Memory.read, h]
    · simp only [Memory.read, ih]

theorem Memory.read_of_risesFrom {m : Memory} {low a : Nat} (hr : Memory.risesFrom low m = true)
    (ha : a < low) : Memory.read m a = unprogrammed := by
  induction m generalizing low with
  | nil => rfl
  | cons c m ih =>
    obtain ⟨k, v⟩ := c
    simp only [Memory.risesFrom, Bool.and_eq_true, decide_eq_true_eq] at hr
    have hne : a ≠ k := by omega
    simp only [Memory.read, hne, if_false]
    exact ih hr.2 (by omega)

theorem Memory.read_erase_same {m : Memory} {low : Nat} (hr : Memory.risesFrom low m = true)
    (a : Nat) : Memory.read (Memory.erase m a) a = unprogrammed := by
  induction m generalizing low with
  | nil => rfl
  | cons c m ih =>
    obtain ⟨k, v⟩ := c
    simp only [Memory.risesFrom, Bool.and_eq_true, decide_eq_true_eq] at hr
    unfold Memory.erase
    split
    · rename_i e
      exact Memory.read_of_risesFrom hr.2 (by omega)
    · rename_i e
      simp only [Memory.read, e, if_false]
      exact ih hr.2

/-- What a load of the program store reads back: the word at its address, every other word as before. -/
theorem Memory.read_write {m : Memory} (hm : Memory.wf m = true) {a : Nat} (ha : a < storeSize)
    (b : Nat) (w : OpWord) :
    Memory.read (Memory.write m a w) b = if b = a then w else Memory.read m b := by
  have hr : Memory.risesFrom 0 m = true := by
    simp only [Memory.wf, Bool.and_eq_true] at hm
    exact hm.1
  unfold Memory.write
  rw [if_neg (by omega)]
  by_cases hb : b = a
  · subst hb
    split
    · rename_i e
      rw [Memory.read_erase_same hr, e]
      simp
    · rw [Memory.read_insert_same]
      simp
  · rw [if_neg hb]
    split
    · exact Memory.read_erase_ne m hb
    · exact Memory.read_insert_ne m w hb

theorem Memory.risesFrom_mono {m : Memory} {low low' : Nat} (h : low' ≤ low)
    (hr : Memory.risesFrom low m = true) : Memory.risesFrom low' m = true := by
  cases m with
  | nil => rfl
  | cons c m =>
    simp only [Memory.risesFrom, Bool.and_eq_true, decide_eq_true_eq] at hr ⊢
    exact ⟨by omega, hr.2⟩

theorem Memory.risesFrom_erase {m : Memory} {low : Nat} (a : Nat)
    (hr : Memory.risesFrom low m = true) : Memory.risesFrom low (Memory.erase m a) = true := by
  induction m generalizing low with
  | nil => rfl
  | cons c m ih =>
    obtain ⟨k, v⟩ := c
    have h := hr
    simp only [Memory.risesFrom, Bool.and_eq_true, decide_eq_true_eq] at h
    unfold Memory.erase
    split
    · exact Memory.risesFrom_mono (by omega) h.2
    · simp only [Memory.risesFrom, Bool.and_eq_true, decide_eq_true_eq]
      exact ⟨h.1, ih h.2⟩

theorem Memory.risesFrom_insert {m : Memory} {low a : Nat} (w : OpWord) (ha : low ≤ a)
    (hr : Memory.risesFrom low m = true) : Memory.risesFrom low (Memory.insert m a w) = true := by
  induction m generalizing low with
  | nil => simp [Memory.insert, Memory.risesFrom, ha]
  | cons c m ih =>
    obtain ⟨k, v⟩ := c
    have h := hr
    simp only [Memory.risesFrom, Bool.and_eq_true, decide_eq_true_eq] at h
    unfold Memory.insert
    split
    · simp only [Memory.risesFrom, Bool.and_eq_true, decide_eq_true_eq]
      exact ⟨ha, by omega, h.2⟩
    · split
      · rename_i e
        subst e
        simp only [Memory.risesFrom, Bool.and_eq_true, decide_eq_true_eq]
        exact h
      · simp only [Memory.risesFrom, Bool.and_eq_true, decide_eq_true_eq]
        exact ⟨h.1, ih (by omega) h.2⟩

theorem Memory.mem_erase {m : Memory} {a : Nat} {c : Nat × OpWord} (h : c ∈ Memory.erase m a) :
    c ∈ m := by
  induction m with
  | nil => exact h
  | cons d m ih =>
    obtain ⟨k, v⟩ := d
    unfold Memory.erase at h
    split at h
    · exact List.mem_cons_of_mem _ h
    · rcases List.mem_cons.mp h with h | h
      · exact h ▸ List.mem_cons_self
      · exact List.mem_cons_of_mem _ (ih h)

theorem Memory.mem_insert {m : Memory} {a : Nat} {w : OpWord} {c : Nat × OpWord}
    (h : c ∈ Memory.insert m a w) : c = (a, w) ∨ c ∈ m := by
  induction m with
  | nil => simpa [Memory.insert] using h
  | cons d m ih =>
    obtain ⟨k, v⟩ := d
    unfold Memory.insert at h
    split at h
    · simpa using h
    · split at h
      · rcases List.mem_cons.mp h with h | h
        · exact .inl h
        · exact .inr (List.mem_cons_of_mem _ h)
      · rcases List.mem_cons.mp h with h | h
        · exact .inr (h ▸ List.mem_cons_self)
        · rcases ih h with h | h
          · exact .inl h
          · exact .inr (List.mem_cons_of_mem _ h)

/-- Every operation that changes the store keeps the canonical form. -/
theorem Memory.wf_write {m : Memory} (hm : Memory.wf m = true) (a : Nat) (w : OpWord) :
    Memory.wf (Memory.write m a w) = true := by
  simp only [Memory.wf, Bool.and_eq_true, List.all_eq_true] at hm ⊢
  unfold Memory.write
  split
  · exact hm
  · split
    · exact ⟨Memory.risesFrom_erase a hm.1, fun c hc => hm.2 c (Memory.mem_erase hc)⟩
    · rename_i hlt hw
      refine ⟨Memory.risesFrom_insert w (Nat.zero_le a) hm.1, fun c hc => ?_⟩
      rcases Memory.mem_insert hc with rfl | hc
      · simp [hw]
        omega
      · exact hm.2 c hc

/-- A program loaded word by word is in the canonical form. -/
theorem Memory.wf_ofWordsFrom (a : Nat) (ws : List OpWord) :
    Memory.wf (Memory.ofWordsFrom a ws) = true := by
  induction ws generalizing a with
  | nil => rfl
  | cons w ws ih => exact Memory.wf_write (ih (a + 1)) a w

theorem Memory.wf_ofWords (ws : List OpWord) : Memory.wf (Memory.ofWords ws) = true :=
  Memory.wf_ofWordsFrom 0 ws

end Sys2Proof.Machine
end

