-- ==== Sys2Proof/Laws/PerInstr.lean ====
section
/-! SUPPORT. The family of statements made for every operation: its word belongs to its row of
spec/opcode_table.json. -/

namespace Sys2Proof.Laws.SpellsOwnRow

/-- The word of `i` spells an operation of `i`'s row: `w & mask = match` (30_encoding.md R91). -/
def Statement (i : Instr) : Prop := spellsRow (encode i) i = true

theorem spells_of_and {w : OpWord} {i : Instr} (h : w &&& rowMask i = rowMatch i) :
    spellsRow w i = true := by
  simp [spellsRow, h]

theorem wr (reg : RegAddr) (imm : Half) : Statement (.wr reg imm) := by
  apply spells_of_and
  simp only [encode, formatR, rowMask, rowMatch]
  ext j hj
  simp only [BitVec.getElem_and, BitVec.getElem_append]
  interval_cases j <;> simp

theorem bis (reg : RegAddr) (imm : Half) : Statement (.bis reg imm) := by
  apply spells_of_and
  simp only [encode, formatR, rowMask, rowMatch]
  ext j hj
  simp only [BitVec.getElem_and, BitVec.getElem_append]
  interval_cases j <;> simp

theorem bic (reg : RegAddr) (imm : Half) : Statement (.bic reg imm) := by
  apply spells_of_and
  simp only [encode, formatR, rowMask, rowMatch]
  ext j hj
  simp only [BitVec.getElem_and, BitVec.getElem_append]
  interval_cases j <;> simp

theorem bbs (reg : RegAddr) (bit : Nat) (off : Int) : Statement (.bbs reg bit off) := by
  apply spells_of_and
  simp only [encode, formatB, rowMask, rowMatch]
  generalize BitVec.ofNat 4 bit = b
  generalize BitVec.ofInt 8 off = o
  ext j hj
  simp only [BitVec.getElem_and, BitVec.getElem_append]
  interval_cases j <;> simp

theorem br (off : Int) : Statement (.br off) := by
  apply spells_of_and
  simp only [encode, formatB, rowMask, rowMatch]
  generalize BitVec.ofInt 8 off = o
  ext j hj
  simp only [BitVec.getElem_and, BitVec.getElem_append]
  interval_cases j <;> simp

theorem sleep : Statement .sleep := by
  unfold Statement
  decide

theorem reti : Statement .reti := by
  unfold Statement
  decide

end Sys2Proof.Laws.SpellsOwnRow
end

