-- ==== Sys2Proof/Machine/Routines.lean ====
section
/-! DEFINITION. The document's routines as runs of operations (spec/42_reference_program.md R120 to
R131), for any parameters. They are what the pseudo-instructions of spec/30_encoding.md R93 expand to;
the machine itself does not depend on them. -/

namespace Sys2Proof.Machine

/-- The mask of one pin, `1 << b` (00_scope.md R5, `SMASK` and `PMASK`). -/
def pinMask (b : Pin) : Half := BitVec.ofNat 16 (2 ^ b.val)

/-- `WDT_HOLD` (42_reference_program.md R120). -/
def wdtHold : List Instr := [.wr Reg.wdt.addr 0x0080]

/-- `CLK_CFG` (42_reference_program.md R121). -/
def clkCfg (c : Params) : List Instr :=
  [.wr Reg.clkrange.addr (c.calRange.setWidth 16), .wr Reg.clkdco.addr (c.calDco.setWidth 16)]

/-- The seven operations of `PIN_INIT` for one port (42_reference_program.md R122). -/
def pinInitPort (p : PortId) : List Instr :=
  [.wr (Reg.portOut p).addr 0x00, .wr (Reg.portDir p).addr 0xFF, .wr (Reg.portRen p).addr 0xFF,
   .wr (Reg.portIes p).addr 0x00, .wr (Reg.portSel p).addr 0x00, .wr (Reg.portSel2 p).addr 0x00,
   .wr (Reg.portIfg p).addr 0x00]

/-- `PIN_INIT`, port 0 first (42_reference_program.md R122). -/
def pinInit : List Instr := pinInitPort .p0 ++ pinInitPort .p1

/-- `SENSOR_SETUP` (42_reference_program.md R123). -/
def sensorSetup (c : Params) : List Instr :=
  [.bic (Reg.portDir c.sensorPort).addr (pinMask c.sensorBit),
   .bis (Reg.portRen c.sensorPort).addr (pinMask c.sensorBit),
   .bis (Reg.portOut c.sensorPort).addr (pinMask c.sensorBit),
   .bis (Reg.portIes c.sensorPort).addr (pinMask c.sensorBit),
   .bic (Reg.portIfg c.sensorPort).addr (pinMask c.sensorBit),
   .bis (Reg.portIe c.sensorPort).addr (pinMask c.sensorBit)]

/-- `PWM_PIN_SETUP` (42_reference_program.md R124). -/
def pwmPinSetup (c : Params) : List Instr :=
  [.bis (Reg.portDir c.pwmPort).addr (pinMask c.pwmBit),
   .bic (Reg.portRen c.pwmPort).addr (pinMask c.pwmBit),
   .bis (Reg.portSel c.pwmPort).addr (pinMask c.pwmBit)]

/-- `PWM_PROGRAM` (42_reference_program.md R125): the mode is `RESET_SET` (90_conflicts.md C1). -/
def pwmProgram : List Instr :=
  [.wr Reg.tperiod.addr Config.periodVal, .wr Reg.tcompare.addr Config.compareVal,
   .wr Reg.tcctl.addr 0x00E0]

/-- `TIMER_START` (42_reference_program.md R126). -/
def timerStart : List Instr := [.wr Reg.tctl.addr 0x0210]

/-- `ENTER_IDLE` (42_reference_program.md R127). -/
def enterIdle : List Instr := [.sleep]

/-- The endless loop after `SLEEP` (42_reference_program.md R128). -/
def idleLoop : List Instr := [.br (-1)]

/-- `EDGE_HANDLER` (42_reference_program.md R129), its polarity that of 90_conflicts.md C2. -/
def edgeHandler (c : Params) : List Instr :=
  [.bbs (Reg.portIn c.sensorPort).addr c.sensorBit.val 3,
   .bic (Reg.portSel c.pwmPort).addr (pinMask c.pwmBit),
   .bic (Reg.portIes c.sensorPort).addr (pinMask c.sensorBit),
   .br 2,
   .bis (Reg.portSel c.pwmPort).addr (pinMask c.pwmBit),
   .bis (Reg.portIes c.sensorPort).addr (pinMask c.sensorBit),
   .wr (Reg.portIfg c.sensorPort).addr 0x00,
   .reti]

/-- The Main Sequencer, 31 operations in the document's fixed order (42_reference_program.md R130,
70_reset_and_hazards.md R198). -/
def mainSequencer (c : Params) : List Instr :=
  wdtHold ++ clkCfg c ++ pinInit ++ sensorSetup c ++ pwmPinSetup c ++ pwmProgram ++ timerStart
    ++ enterIdle

/-- The reference program (42_reference_program.md R131): the Main Sequencer at 0x00, the loop at 0x1F,
the handler at 0x20. -/
def referenceProgram (c : Params) : List Instr :=
  mainSequencer c ++ idleLoop ++ edgeHandler c

/-- The program store that holds the operations of `is` from address 0x00 on (42_reference_program.md
R131). -/
def assemble (is : List Instr) : Memory :=
  Memory.ofWords (is.map encode)

end Sys2Proof.Machine
end

