-- ==== Sys2Proof/Tests/Slice0.lean ====
section
/-! SUPPORT. The model's own tests. Expected values come from the spec: 95_test_vectors.md (their names
T-… stand in the docstrings), 30_encoding.md and 42_reference_program.md. A `witness_` theorem shows that
the hypotheses of the obligation it names are met together. -/

namespace Sys2Proof.Tests

-- Elaborated one after another: many kernel evaluations at once would need too many threads.
set_option Elab.async false

open Sys2Proof.Machine Sys2Proof.Safety
open Host (Outcome)

/-! ### Helpers -/

/-- The outcome is a next state that meets `P`. -/
def nextMeets (o : Outcome State Fault Refusal) (P : State → Prop) [DecidablePred P] : Bool :=
  match o with
  | .next t => decide (P t)
  | _ => false

theorem exists_next {o : Outcome State Fault Refusal} {P : State → Prop} [DecidablePred P]
    (h : nextMeets o P = true) : ∃ t, o = .next t ∧ P t := by
  unfold nextMeets at h
  split at h
  · exact ⟨_, rfl, of_decide_eq_true h⟩
  · cases h

/-- The state with `c` as its next choice. -/
def withNext (c : Choice) (s : State) : State := { s with agenda := [c] }

/-- The state after reset with the word `w` as its next operation, after the change `f`. -/
def runs (w : Nat) (f : State → State) : Outcome State Fault Refusal :=
  step ((f State.reset).withFetchWord 32 w)

/-- Pin 3 of port 0 is an input with a pull resistor, the vectors' T-R18 set-up. -/
def pulledPort (out ies : Byte) : PortRegs := ⟨out, 0xF7, 0xFF, ies, 0x00, 0x00, 0x00, 0x00⟩

/-- Port 0 as in section 2.5 of the vectors: pin 3 pulled up, armed as `ies` says. -/
def sensing (ies : Byte) (d : Drive) : State :=
  { State.reset with
    port0 := ⟨0x08, 0xF7, 0xFF, ies, 0x00, 0x00, 0x08, 0x00⟩
    env0 := { State.reset.env0 with ext := State.reset.env0.ext.set 3 d } }

/-- An idle state with a request of port 0 pending (T-E1). -/
def requesting : State :=
  { sensing 0x08 .L with
    port0 := ⟨0x08, 0xF7, 0xFF, 0x08, 0x00, 0x00, 0x08, 0x08⟩
    gie := true, lpm := .wait, pc := 0x1F, wdt := 0x0080, wdtGrace := false }

/-- The handler's last operation of the reference program is next (T-C15). -/
def returning : State :=
  { sensing 0x08 .L with
    pc := 0x27, inh := true, saved := ⟨0x1F, true, .wait⟩, wdt := 0x0080, wdtGrace := false }

/-- The vector leads straight to a `RETI`. -/
def shortHandler : State := { requesting with params := { Params.default with vec0 := some 0x27 } }

/-- A faulted machine. -/
def faulted : State := { State.reset with fault := some (.pcRange 0x40), tctl := 0x0210 }

/-- The timer runs with period 4 and compare 3 in the mode `m` (T-T2, T-T3). -/
def counting (m n : Half) : State :=
  { State.reset with tctl := 0x0210, tcctl := m, tperiod := 4, tcompare := 3, tcnt := n }

/-! ### Well-formedness -/

theorem test_wf_refuses_bit_16 : (Instr.bbs 0x82 16 0).wf = false := by decide
theorem test_wf_refuses_offset_128 : (Instr.bbs 0x10 3 128).wf = false := by decide
theorem test_wf_refuses_offset_below : (Instr.bbs 0x10 3 (-129)).wf = false := by decide
theorem test_wf_refuses_far_branch : (Instr.br 128).wf = false ∧ (Instr.br (-129)).wf = false := by decide
theorem test_params_refuse_one_pin_for_both :
    ({ Params.default with pwmBit := 3 } : Params).wf = false := by decide
theorem test_rom_refuses_unordered : Memory.wf [(1, 0x60000000), (0, 0x60000000)] = false := by decide
theorem test_rom_refuses_listed_blank : Memory.wf [(1, 0x00000000)] = false := by decide
theorem test_rom_refuses_address_64 : Memory.wf [(64, 0x60000000)] = false := by decide

/-! ### Decoding, the words of 95_test_vectors.md section 2.1 -/

/-- T-D1. -/
theorem test_decode_wr : decode 0x1A000080 = .ok (.wr 0xA0 0x0080) := by decide
/-- T-D2. -/
theorem test_decode_bis : decode 0x21500040 = .ok (.bis 0x15 0x0040) := by decide
/-- T-D3. -/
theorem test_decode_bic : decode 0x31400008 = .ok (.bic 0x14 0x0008) := by decide
/-- T-D4, T-D5. -/
theorem test_decode_bbs :
    decode 0x41030003 = .ok (.bbs 0x10 3 3) ∧ decode 0x410300FF = .ok (.bbs 0x10 3 (-1)) := by decide
/-- T-D6, T-D8. -/
theorem test_decode_br : decode 0x50000002 = .ok (.br 2) ∧ decode 0x50000080 = .ok (.br (-128)) := by
  decide
/-- T-D9. -/
theorem test_decode_sleep : decode 0x60000000 = .ok .sleep := by decide
/-- T-D10. -/
theorem test_decode_reti : decode 0x70000000 = .ok .reti := by decide
/-- T-D11, T-D12. -/
theorem test_decode_illegal_op : decode 0x00000000 = .error .illegalOpcode ∧
    decode 0x80000000 = .error .illegalOpcode ∧ decode 0xF0000000 = .error .illegalOpcode := by decide
/-- T-D13 to T-D17. -/
theorem test_decode_must_be_zero : decode 0x11110000 = .error .mustBeZero ∧
    decode 0x41030103 = .error .mustBeZero ∧ decode 0x50010000 = .error .mustBeZero ∧
    decode 0x60000001 = .error .mustBeZero ∧ decode 0x70000100 = .error .mustBeZero := by decide
/-- T-D18. -/
theorem test_decode_unmapped_is_well_formed : decode 0x10000000 = .ok (.wr 0x00 0x0000) := by decide
theorem test_decodeTableWord : decodeTableWord 32 0x70000000 = some .reti ∧
    decodeTableWord 32 0x70000100 = none := by decide
/-- The words of 42_reference_program.md R131 are those of its listed operations. -/
theorem test_reference_program_encodes :
    (referenceProgram Params.default).map encode = Config.referenceWords := by decide +kernel
theorem test_reset_rom_is_canonical : Memory.wf State.reset.rom = true := by decide +kernel

/-! ### Operations, 95_test_vectors.md sections 2.2 and 2.3 -/

/-- T-R3. -/
theorem test_wr : ∃ t, runs 0x183003E8 id = .next t ∧ t.tperiod = 0x03E8 ∧ t.pc = 0x01 :=
  exists_next (by decide +kernel)
/-- T-R15: the read-only check comes before the immediate's. -/
theorem test_wr_in : ∃ t, runs 0x11000100 id = .next t ∧ t.fault = some (.readOnlyWrite 0x10) :=
  exists_next (by decide +kernel)
/-- T-R18: switching the pull-up on is an armed edge. -/
theorem test_bis_latches : ∃ t, runs 0x21100008 (fun s => { s with port0 := pulledPort 0x00 0x00 }) =
    .next t ∧ t.port0.out = 0x08 ∧ t.port0.ifg = 0x08 :=
  exists_next (by decide +kernel)
/-- T-R19: armed for the other direction. -/
theorem test_bis_unarmed : ∃ t, runs 0x21100008 (fun s => { s with port0 := pulledPort 0x00 0x08 }) =
    .next t ∧ t.port0.out = 0x08 ∧ t.port0.ifg = 0x00 :=
  exists_next (by decide +kernel)
/-- T-R5. -/
theorem test_bic : ∃ t, runs 0x38000010 (fun s => { s with tctl := 0x0210 }) = .next t ∧
    t.tctl = 0x0200 :=
  exists_next (by decide +kernel)
/-- T-R6: the result decides. -/
theorem test_bic_reserved : ∃ t, runs 0x38000200 (fun s => { s with tctl := 0x0210 }) = .next t ∧
    t.fault = some (.reservedValue 0x80 0x0010) ∧ t.tctl = 0x0210 ∧ t.pc = 0x00 :=
  exists_next (by decide +kernel)
/-- T-C3: a backward branch to itself. -/
theorem test_bbs_taken : ∃ t, runs 0x410300FF (fun s => { sensing 0x08 .Z with
    agenda := s.agenda, pc := 0x04 }) = .next t ∧ t.pc = 0x04 :=
  exists_next (by decide +kernel)
/-- T-C5: bit 15 of a 16-bit register. -/
theorem test_bbs_untaken : ∃ t, runs 0x482F0001 id = .next t ∧ t.pc = 0x01 :=
  exists_next (by decide +kernel)
/-- T-C11. -/
theorem test_br : ∃ t, runs 0x500000C0 (fun s => { s with pc := 0x3F }) = .next t ∧ t.pc = 0x00 :=
  exists_next (by decide +kernel)
/-- T-C9. -/
theorem test_br_out_of_range : ∃ t, runs 0x500000FE id = .next t ∧ t.fault = some (.pcRange (-1)) :=
  exists_next (by decide +kernel)
/-- T-C12. -/
theorem test_sleep : ∃ t, runs 0x60000000 (fun s => { s with pc := 0x1E }) = .next t ∧
    t.gie = true ∧ t.lpm = .wait ∧ t.pc = 0x1F :=
  exists_next (by decide +kernel)
/-- T-C14. -/
theorem test_sleep_at_end : ∃ t, runs 0x60000000 (fun s => { s with pc := 0x3F }) = .next t ∧
    t.fault = some (.pcRange 0x40) ∧ t.gie = false :=
  exists_next (by decide +kernel)
/-- T-C15. -/
theorem test_reti : ∃ t, runs 0x70000000 (fun _ => returning) = .next t ∧ t.pc = 0x1F ∧
    t.gie = true ∧ t.lpm = .wait ∧ t.inh = false :=
  exists_next (by decide +kernel)
/-- T-C16. -/
theorem test_reti_outside : ∃ t, runs 0x70000000 id = .next t ∧
    t.fault = some (.retiOutsideHandler 0x00) :=
  exists_next (by decide +kernel)

/-! ### Agents, 95_test_vectors.md sections 2.4 to 2.7 -/

/-- T-T14: the counter wraps from its largest value. -/
theorem test_tick_wraps : ∃ t, step (withNext .tick { counting 0x00E0 0xFFFF with
    tperiod := 0xFFFF, tcompare := 2 }) = .next t ∧ t.tcnt = 0 ∧ tout t = true :=
  exists_next (by decide +kernel)
/-- T-P9: the PWM pin latches nothing. -/
theorem test_tick_latches_nothing : ∃ t, step (withNext .tick { State.reset with
    port0 := ⟨0x00, 0x00, 0x00, 0x40, 0x40, 0x00, 0x00, 0x00⟩
    tctl := 0x0210, tcctl := 0x00E0, tcnt := 749, tcompare := 750, tperiod := 1000 }) = .next t ∧
    pwmPinLevel t = false ∧ t.port0.ifg = 0x00 :=
  exists_next (by decide +kernel)
/-- T-P7: masks do not stop the latch. -/
theorem test_environment_latches : ∃ t, step (withNext (.environment [.ext .p0 3 .L])
    (sensing 0x08 .Z)) = .next t ∧ t.port0.ifg = 0x08 ∧ level t .p0 3 = false :=
  exists_next (by decide +kernel)
/-- T-E1, third row. -/
theorem test_acceptance : ∃ t, step (withNext (.acceptance .p0) requesting) = .next t ∧
    t.pc = 0x20 ∧ t.gie = false ∧ t.lpm = .active ∧ t.inh = true ∧ t.saved = ⟨0x1F, true, .wait⟩ ∧
    t.port0.ifg = 0x08 :=
  exists_next (by decide +kernel)
/-- T-E13. -/
theorem test_acceptance_without_vector : ∃ t, step (withNext (.acceptance .p1) { requesting with
    port1 := ⟨0x00, 0xFE, 0x00, 0x00, 0x00, 0x00, 0x01, 0x01⟩ }) = .next t ∧
    t.fault = some (.noVector .p1) :=
  exists_next (by decide +kernel)
/-- T-X5. -/
theorem test_expiry_discards_the_context : ∃ t, step (withNext (.watchdogExpiry Config.namedDraws)
    { returning with wdt := 0x0000 }) = .next t ∧ t.inh = false ∧ t.pc = 0x00 ∧ t.wdtGrace = true :=
  exists_next (by decide +kernel)

/-! ### Witnesses: encoding and the sequencer's step -/

theorem witness_DecodeOfEncodeIsTheOperation :
    (Instr.wr 0xFF 0xFFFF).wf = true ∧ (Instr.bis 0x00 0x0000).wf = true ∧
    (Instr.bic 0xA0 0x8000).wf = true ∧ (Instr.bbs 0xFF 15 127).wf = true ∧
    (Instr.bbs 0x00 0 (-128)).wf = true ∧ (Instr.br 127).wf = true ∧ (Instr.br (-128)).wf = true ∧
    Instr.sleep.wf = true ∧ Instr.reti.wf = true := by decide
theorem witness_EncodeOfDecodeIsTheWord : decode 0x4A0F0080 = .ok (.bbs 0xA0 15 (-128)) ∧
    decode 0x1FF0FFFF = .ok (.wr 0xFF 0xFFFF) := by decide
theorem witness_WordsDecodeByMaskAndMatch : (0x5000007F : OpWord) &&& rowMask (.br 0) = rowMatch (.br 0) ∧
    (0x5000017F : OpWord) &&& rowMask (.br 0) ≠ rowMatch (.br 0) := by decide
theorem witness_StepRunsTheDecodedOperation :
    nextChoice (withNext (.operation 0x00) State.reset) = .operation 0x00 ∧
    State.reset.fault = none ∧ State.reset.lpm = .active ∧
    decode (Memory.read State.reset.rom State.reset.pc.toNat) = .ok (.wr 0xA0 0x0080) := by
  decide +kernel
theorem witness_IllegalWordRaisesIllegalOp :
    nextChoice (withNext (.operation 0x00) { State.reset with pc := 0x3F }) = .operation 0x00 ∧
    decode (Memory.read State.reset.rom 0x3F) = .error .illegalOpcode := by decide +kernel
theorem witness_FetchedWordRunsNext : 0x7000_0000 < 2 ^ 32 ∧
    decode (BitVec.ofNat 32 0x7000_0000) = .ok .reti := by decide
theorem witness_DisabledChoiceIsTheEmptyEnvironmentStep : enabled .tick State.reset = false ∧
    enabled (.operation 0x00) faulted = false ∧ enabled (.acceptance .p0) State.reset = false ∧
    enabled (.watchdogExpiry Config.namedDraws) State.reset = false := by decide +kernel
theorem witness_EveryInterleavingIsARun : ∃ t,
    takeAll [.operation 0x00, .tick, .environment [.ext .p0 3 .L]] State.reset = .next t ∧
      t.pc = 0x01 ∧ t.wdt = 0x0080 :=
  exists_next (by decide +kernel)

/-! ### Witnesses: invariants and whole-machine rules -/

theorem witness_ResetMeetsTheInvariant :
    Memory.wf faulted.rom = true ∧ faulted.params.wf = true := by decide +kernel
theorem witness_EveryStepKeepsTheInvariant : BlockInv returning ∧
    ∃ t, step (withNext (.operation 0x00) returning) = .next t ∧ BlockInv t ∧ t.lpm = .wait :=
  ⟨by decide +kernel, exists_next (by decide +kernel)⟩
theorem witness_NoStepWritesTheProgramStore :
    ∃ t, step (withNext (.operation 0x00) State.reset) = .next t ∧ t.wdt = 0x0080 :=
  exists_next (by decide +kernel)
theorem witness_OperationAndAcceptanceAreNeverBothEnabled :
    ModeInv State.reset ∧ enabled (.operation 0x00) State.reset = true := by decide +kernel
theorem witness_OnlyAcceptanceOrResetEndsTheWait : requesting.lpm = .wait ∧
    (∃ t, step (withNext (.acceptance .p0) requesting) = .next t ∧ t.lpm = .active) ∧
    ∃ t, step (withNext (.powerOnReset Config.namedDraws) requesting) = .next t ∧ t.lpm = .active :=
  ⟨by decide, exists_next (by decide +kernel), exists_next (by decide +kernel)⟩
theorem witness_GieChangesOnlyBySleepRetiAcceptanceAndReset :
    (BlockInv { State.reset with pc := 0x1E } ∧
      ∃ t, step (withNext (.operation 0x00) { State.reset with pc := 0x1E }) = .next t ∧ t.gie = true) ∧
    (BlockInv requesting ∧ requesting.gie = true ∧
      ∃ t, step (withNext (.acceptance .p0) requesting) = .next t ∧ t.gie = false) :=
  ⟨⟨by decide +kernel, exists_next (by decide +kernel)⟩, by decide +kernel, by decide,
    exists_next (by decide +kernel)⟩
theorem witness_HandlerContextIsNeverNested :
    (requesting.inh = false ∧ ∃ t, step (withNext (.acceptance .p0) requesting) = .next t ∧
      t.inh = true) ∧
    (BlockInv returning ∧ returning.inh = true ∧
      (∃ t, step (withNext (.operation 0x00) returning) = .next t ∧ t.inh = false) ∧
      ∃ t, step (withNext (.operation 0x00) { returning with pc := 0x26 }) = .next t ∧ t.inh = true) :=
  ⟨⟨by decide, exists_next (by decide +kernel)⟩, by decide +kernel, by decide,
    exists_next (by decide +kernel), exists_next (by decide +kernel)⟩
theorem witness_PcChangesInExactlyFiveWays :
    (∃ t, step (withNext (.operation 0x00) State.reset) = .next t ∧ t.pc ≠ State.reset.pc) ∧
    (∃ t, step (withNext (.operation 0x00) { sensing 0x08 .Z with pc := 0x20 }) = .next t ∧
      t.pc = 0x24) ∧
    (∃ t, step (withNext (.operation 0x00) returning) = .next t ∧ t.pc = 0x1F) ∧
    (∃ t, step (withNext (.acceptance .p0) requesting) = .next t ∧ t.pc = 0x20) ∧
    ∃ t, step (withNext (.powerOnReset Config.namedDraws) requesting) = .next t ∧ t.pc = 0x00 :=
  ⟨exists_next (by decide +kernel), exists_next (by decide +kernel), exists_next (by decide +kernel),
    exists_next (by decide +kernel), exists_next (by decide +kernel)⟩
theorem witness_GraceEndsWithTheFirstCompletedOperation : State.reset.wdtGrace = true ∧
    (∃ t, step (withNext (.operation 0x00) State.reset) = .next t ∧ t.wdtGrace = false) ∧
    returning.wdtGrace = false ∧
    ∃ t, step (withNext (.powerOnReset Config.namedDraws) returning) = .next t ∧ t.wdtGrace = true :=
  ⟨by decide, exists_next (by decide +kernel), by decide, exists_next (by decide +kernel)⟩
theorem witness_FaultIsClearedOnlyByReset : faulted.fault = some (.pcRange 0x40) ∧
    (∃ t, step (withNext .tick faulted) = .next t ∧ t.fault = some (.pcRange 0x40)) ∧
    ∃ t, step (withNext (.powerOnReset Config.namedDraws) faulted) = .next t ∧ t.fault = none :=
  ⟨by decide, exists_next (by decide +kernel), exists_next (by decide +kernel)⟩
theorem witness_FaultingOperationHasNoOtherEffect : State.reset.fault = none ∧
    ∃ t, exec .reti State.reset = .next t ∧ t.fault ≠ none :=
  ⟨by decide, exists_next (by decide +kernel)⟩

/-! ### Witnesses: operations -/

theorem witness_WrWritesTheWholeRegister :
    (regAt 0x28 = some (.portIfg .p1) ∧ (Reg.portIfg .p1).readOnly = false ∧
      (0x00FF : Half).toNat ≤ 0xFF ∧ legalValue (.portIfg .p1) 0x00FF = true) ∧
    (regAt 0x84 = some .tcompare ∧ Reg.tcompare.width = 16 ∧ legalValue .tcompare 0xFFFF = true) ∧
    (regAt 0xA0 = some .wdt ∧ legalValue .wdt 0x0080 = true) ∧
    State.reset.pc ≠ 0x3F ∧ { State.reset with pc := 0x3E }.pc ≠ 0x3F := by decide +kernel
theorem witness_BisSetsTheBitsOfTheMask : regAt 0x11 = some (.portOut .p0) ∧
    legalValue (.portOut .p0) (readReg State.reset (.portOut .p0) ||| 0x00FF) = true ∧
    regAt 0x80 = some .tctl ∧ legalValue .tctl (readReg State.reset .tctl ||| 0x0210) = true ∧
    State.reset.pc ≠ 0x3F := by decide +kernel
theorem witness_BicClearsTheBitsOfTheMask : regAt 0x14 = some (.portIes .p0) ∧
    legalValue (.portIes .p0) (readReg State.reset (.portIes .p0) &&& ~~~0x00FF) = true ∧
    legalValue .tctl (readReg faulted .tctl &&& ~~~0x0010) = true ∧ State.reset.pc ≠ 0x3F := by
  decide +kernel
/-- The Edge-Select side effect of 44_port_pin_and_edge_logic.md R167, where the parameter allows it. -/
theorem witness_EdgeSelectDraw : ∃ t, exec (.wr 0x14 0x00FF) { State.reset with
    params := { Params.default with iesWriteMaySetFlag := true }, iesDraw := 0x0F } = .next t ∧
    t.port0.ies = 0xFF ∧ t.port0.ifg = 0x0F :=
  exists_next (by decide +kernel)
theorem witness_RewritingAValueChangesOnlyPc : regAt 0x80 = some .tctl ∧ Reg.tctl.readOnly = false ∧
    legalValue .tctl (readReg faulted .tctl) = true ∧ faulted.pc ≠ 0x3F := by decide +kernel
/-- The addresses next to the mapped ranges. -/
theorem witness_UnmappedAddressFaults : (∀ r : Reg, r.addr ≠ 0x0F) ∧ (∀ r : Reg, r.addr ≠ 0x19) ∧
    (∀ r : Reg, r.addr ≠ 0x85) ∧ ∀ r : Reg, r.addr ≠ 0xFF := by
  refine ⟨?_, ?_, ?_, ?_⟩ <;> intro r <;> rcases r with p | p | p | p | p | p | p | p | p |
    _ | _ | _ | _ | _ | _ | _ | _ <;> first | decide | (cases p <;> decide)
theorem witness_WideImmediateFaults : regAt 0x90 = some .clkrange ∧ Reg.clkrange.readOnly = false ∧
    Reg.clkrange.width = 8 ∧ 0xFF < (0x0100 : Half).toNat := by decide
theorem witness_ReservedValueFaults :
    ((0x0010 : Half) ≠ 0x0000 ∧ (0x0010 : Half) ≠ 0x0200 ∧ (0x0010 : Half) ≠ 0x0210 ∧
      (0x0010 : Half) = faulted.tctl &&& ~~~0x0200) ∧
    ((0x0020 : Half) = State.reset.tcctl ||| 0x0020 ∧ (0x0020 : Half) ≠ 0x0060) ∧
    (0x0001 : Half) ≠ 0x0000 ∧ (0x0001 : Half) ≠ 0x0080 := by decide +kernel
/-- Taken down to address 0x00, and untaken up to 0x3F, on the highest bit of a 16-bit register. -/
theorem witness_BbsBranchesOnTheRegisterBit : regAt 0x82 = some .tcnt ∧ 15 < Reg.tcnt.width ∧
    (0 : Int) = ((counting 0x00E0 0x8000).pc.toNat : Int) + 1 +
      (if (readReg (counting 0x00E0 0x8000) .tcnt).getLsbD 15 then -1 else 0) ∧
    (0x3F : Int) = (({ counting 0x00E0 0x7FFF with pc := 0x3E }.pc.toNat : Nat) : Int) + 1 +
      (if (readReg { counting 0x00E0 0x7FFF with pc := 0x3E } .tcnt).getLsbD 15 then -1 else 0) := by
  decide +kernel
theorem witness_BrBranchesAlways : (0 : Int) ≤ ((0x3F : ProgAddr).toNat : Int) + 1 + (-64) ∧
    ((0x00 : ProgAddr).toNat : Int) + 1 + 62 ≤ 0x3F := by decide
theorem witness_BitIndexOutOfRangeFaults : decode 0x482F0001 = .ok (.bbs 0x82 15 1) ∧
    regAt 0x10 = some (.portIn .p0) ∧
    (Reg.portIn .p0).width ≤ 8 ∧ regAt 0xA0 = some .wdt ∧ Reg.wdt.width ≤ 16 := by decide
theorem witness_LeavingTheProgramStoreFaults : ((0x00 : ProgAddr).toNat : Int) + 1 + (-2) < 0 ∧
    (0x3F : Int) < (0x3F : ProgAddr).toNat + 1 + 0 ∧
    { State.reset with pc := 0x3F }.pc = 0x3F ∧ State.reset.inh = false ∧
    regAt 0x11 = some (.portOut .p0) ∧ legalValue (.portOut .p0) 0x0000 = true ∧
    (readReg State.reset (.portOut .p0)).getLsbD 7 = false := by decide +kernel
theorem witness_SleepEnablesInterruptsAndWaits :
    State.reset.inh = false ∧ { State.reset with pc := 0x3E }.pc ≠ 0x3F := by decide
theorem witness_RetiRestoresTheSavedContext : returning.inh = true := by decide
theorem witness_ContextOperationsInTheWrongContextFault :
    returning.inh = true ∧ State.reset.inh = false := by decide

/-! ### Witnesses: acceptance, timer, pins, reset -/

theorem witness_AcceptanceEntersTheHandler :
    nextChoice (withNext (.acceptance .p0) requesting) = .acceptance .p0 ∧ requesting.fault = none ∧
    requesting.gie = true ∧ (requesting.port .p0).ifg &&& (requesting.port .p0).ie ≠ 0 ∧
    requesting.params.vec .p0 = some 0x20 ∧ requesting.params.vec .p1 = none := by decide +kernel
theorem witness_AcceptanceThenRetiComesBack : Idle shortHandler ∧ requests shortHandler .p0 = true ∧
    shortHandler.params.vec .p0 = some 0x27 ∧
    decode (Memory.read shortHandler.rom (0x27 : ProgAddr).toNat) = .ok .reti := by decide +kernel
theorem witness_TickChangesOnlyTheCounter :
    nextChoice (withNext .tick (counting 0x00E0 3)) = .tick ∧ (counting 0x00E0 3).tctl = 0x0210 := by
  decide +kernel
theorem witness_TimerCornerCases :
    { counting 0x00E0 0 with tperiod := 1 }.tperiod.toNat ≤ 1 ∧
    { counting 0x00E0 0 with tcompare := 0 }.tcompare = 0 ∧
    ({ counting 0x0060 3 with tcompare := 4 }.tperiod.toNat ≤ 4 ∧ (counting 0x0060 3).tcnt.toNat < 4) ∧
    (counting 0x00E0 4).tperiod.toNat ≤ (counting 0x00E0 4).tcnt.toNat ∧
    (timerTick (counting 0x00E0 2)).tcnt ≠ 0 ∧ (counting 0x00E0 0xFFFF).tcnt = 0xFFFF := by
  decide +kernel
/-- T-T2, T-T3: period 4, compare 3. -/
theorem witness_WaveformLaw : (counting 0x00E0 0).tctl = 0x0210 ∧ (counting 0x00E0 0).tperiod.toNat = 4 ∧
    (counting 0x00E0 0).tcompare.toNat = 3 ∧ (counting 0x00E0 3).tcnt.toNat < 4 ∧
    (ticks 1 (counting 0x00E0 3)).tcnt = 0 ∧ highIntervals 4 (counting 0x00E0 0) = 3 ∧
    highIntervals 4 (counting 0x0060 0) = 1 ∧ highIntervals 4 (counting 0x0000 0) = 0 := by
  decide +kernel
/-- T-T12: period 4, compare 2, started at 9, above the period. -/
theorem witness_WaveformLaw_above_the_period :
    4 ≤ { counting 0x00E0 9 with tcompare := 2 }.tcnt.toNat ∧
    tout { counting 0x00E0 9 with tcompare := 2 } = false ∧
    (ticks 1 { counting 0x00E0 9 with tcompare := 2 }).tcnt = 0 ∧
    tout (ticks 3 { counting 0x00E0 9 with tcompare := 2 }) = false := by decide +kernel
theorem witness_PinLevelsAreAsTheTableSays :
    role { State.reset with port0 := { State.reset.port0 with sel := 0x40 } } .p0 6 = .timer ∧
    role { State.reset with port0 := { State.reset.port0 with sel := 0x08 } } .p0 3 = .unspec ∧
    role State.reset .p0 7 = .gpio ∧ isDigitalInput State.reset .p1 0 = true ∧
    (sensing 0x08 .H).env0.ext.get 3 = .H ∧ (sensing 0x08 .Z).port0.ren.getLsbD 3 = true := by
  decide +kernel
theorem witness_PwmPinCarriesTimerOrOutput :
    { State.reset.port0 with sel := 0x40 }.sel.getLsbD 6 = true ∧ State.reset.port0.sel2.getLsbD 6 = false ∧
    { State.reset.port0 with dir := 0xFF }.dir.getLsbD 6 = true := by decide
theorem witness_EnvironmentStepLatchesArmedEdges :
    nextChoice (withNext (.environment [.ext .p0 3 .L]) (sensing 0x08 .Z)) =
      .environment [.ext .p0 3 .L] := by decide +kernel
theorem witness_FlagWritesAndLevelChangesNeverMeet :
    (∃ t, step ((sensing 0x08 .Z).withFetchWord 32 0x21800001) = .next t ∧ t.port0.ifg = 0x01 ∧
      ∀ b, level t .p0 b = level (sensing 0x08 .Z) .p0 b) ∧
    ∃ t, step (withNext (.environment [.ext .p0 3 .L]) (sensing 0x08 .Z)) = .next t ∧
      level t .p0 3 ≠ level (sensing 0x08 .Z) .p0 3 :=
  ⟨exists_next (by decide +kernel), exists_next (by decide +kernel)⟩
theorem witness_FlagsAreSetOnlyByArmedEdgesOrSoftware : (sensing 0x08 .Z).port0.ifg.getLsbD 3 = false ∧
    (∃ t, step (withNext (.environment [.ext .p0 3 .L]) (sensing 0x08 .Z)) = .next t ∧
      (t.port .p0).ifg.getLsbD 3 = true) ∧
    ∃ t, step ((sensing 0x08 .Z).withFetchWord 32 0x21800008) = .next t ∧
      (t.port .p0).ifg.getLsbD 3 = true :=
  ⟨by decide, exists_next (by decide +kernel), exists_next (by decide +kernel)⟩
theorem witness_FlagsStayUntilSoftwareClearsThem : requesting.port0.ifg.getLsbD 3 = true ∧
    (∃ t, step (requesting.withFetchWord 32 0x11800000) = .next t ∧
      (t.port .p0).ifg.getLsbD 3 = false) ∧
    (∃ t, step (requesting.withFetchWord 32 0x31800008) = .next t ∧
      (t.port .p0).ifg.getLsbD 3 = false) ∧
    ∃ t, step (withNext (.powerOnReset Config.namedDraws) requesting) = .next t ∧
      (t.port .p0).ifg.getLsbD 3 = false :=
  ⟨by decide, exists_next (by decide +kernel), exists_next (by decide +kernel),
    exists_next (by decide +kernel)⟩
theorem witness_MasksPlayNoPartInTheLatch :
    ((environmentStep [.ext .p0 3 .L] { sensing 0x08 .Z with gie := true, lpm := .wait }).port .p0).ifg =
      0x08 ∧
    ∃ t, exec (.bis 0x11 0x08) { State.reset with
      port0 := { pulledPort 0x00 0x00 with ie := 0xFF }, gie := true, lpm := .wait } = .next t ∧
      t.port0.ifg = 0x08 :=
  ⟨by decide +kernel, exists_next (by decide +kernel)⟩
theorem witness_ResetGivesTheResetValues :
    nextChoice (withNext (.powerOnReset Config.namedDraws) faulted) =
      .powerOnReset Config.namedDraws := by decide +kernel
theorem witness_WatchdogExpiryIsAReset : State.reset.wdt.getLsbD 7 = false ∧
    { State.reset with wdtGrace := false }.wdtGrace = false ∧ returning.wdt.getLsbD 7 = true ∧
    State.reset.wdtGrace = true := by decide
theorem witness_BlockDriveIsAsTheTableSays :
    role { State.reset with port0 := { State.reset.port0 with dir := 0x80 } } .p0 7 = .gpio ∧
    blockDrive { State.reset with port0 := { State.reset.port0 with dir := 0x80, out := 0x80 } } .p0 7 =
      some true ∧
    role { State.reset with port0 := { State.reset.port0 with sel := 0x40 } } .p0 6 = .timer ∧
    blockDrive State.reset .p0 0 = none ∧
    role { State.reset with port0 := { State.reset.port0 with sel2 := 0x01 } } .p0 0 = .unspec := by
  decide +kernel

/-! ### A run: a software-set flag of port 1, which has no vector -/

/-- `WR PORT1.IE, #1`, `WR PORT1.IFG, #1`, `SLEEP`. -/
def flaggedStart : State :=
  { State.reset with rom := Memory.ofWords [0x12700001, 0x12800001, 0x60000000] }

/-- Three operations, the acceptance, and then environment steps that change nothing. -/
def flaggedChoices (n : Nat) : Choice :=
  if n < 3 then .operation 0x00 else if n = 3 then .acceptance .p1 else .environment []

/-- The next state of an outcome, `s` where there is none. -/
def stateAfter (s : State) : Outcome State Fault Refusal → State
  | .next t => t
  | _ => s

def flaggedRun : Nat → State
  | 0 => flaggedStart
  | n + 1 => stateAfter flaggedStart (perform (flaggedChoices n) (useTicket (flaggedRun n)))

theorem eq_next_of_meets {o : Outcome State Fault Refusal} (s : State)
    (h : nextMeets o (fun _ => True) = true) : o = .next (stateAfter s o) := by
  cases o with
  | next t => rfl
  | fault f => cases h
  | refused r => cases h

theorem flaggedRun_ends : ∀ k, (flaggedRun (k + 4)).fault = some (.noVector .p1) ∧
    (flaggedRun (k + 4)).tctl = 0x0000
  | 0 => by decide +kernel
  | k + 1 => by
    have hc : flaggedChoices (k + 4) = .environment [] := by
      rw [flaggedChoices, if_neg (by omega), if_neg (by omega)]
    have hs : flaggedRun (k + 1 + 4) = environmentStep [] (useTicket (flaggedRun (k + 4))) := by
      rw [show k + 1 + 4 = k + 4 + 1 by omega, flaggedRun, hc]
      rfl
    simpa [hs] using flaggedRun_ends k

theorem flaggedRun_isRun : IsRun flaggedChoices flaggedRun where
  first := ⟨⟨Config.namedDraws, rfl⟩, by decide +kernel, by decide +kernel⟩
  enabled
    | 0 => by decide +kernel
    | 1 => by decide +kernel
    | 2 => by decide +kernel
    | 3 => by decide +kernel
    | k + 4 => by
      rw [flaggedChoices, if_neg (by omega), if_neg (by omega)]
      rfl
  next
    | 0 => eq_next_of_meets _ (by decide +kernel)
    | 1 => eq_next_of_meets _ (by decide +kernel)
    | 2 => eq_next_of_meets _ (by decide +kernel)
    | 3 => eq_next_of_meets _ (by decide +kernel)
    | k + 4 => by
      apply eq_next_of_meets
      rw [flaggedChoices, if_neg (by omega), if_neg (by omega)]
      rfl

/-- No choice of a kind that is never enabled once the run has ended has to be taken. -/
theorem fairFor_of_disabled {kind : Choice → Bool}
    (h : ∀ k c, kind c = true → enabled c (flaggedRun (k + 4)) = false) :
    FairFor kind flaggedChoices flaggedRun := by
  intro n hn
  obtain ⟨c, hk, he⟩ := hn (n + 4) (by omega)
  rw [h n c hk] at he
  cases he

theorem flaggedRun_fair : WeaklyFair flaggedChoices flaggedRun := by
  refine ⟨fairFor_of_disabled ?_, fun p => fairFor_of_disabled ?_, fairFor_of_disabled ?_⟩
  · intro k c hk
    cases c <;> simp_all [enabled, operationEnabled, flaggedRun_ends]
  · intro k c hk
    cases c <;> simp_all [enabled, acceptanceEnabled, flaggedRun_ends]
  · intro k c hk
    cases c <;> simp_all [enabled, tickEnabled, flaggedRun_ends, tctlRunning]

theorem witness_EveryRunKeepsTheInvariant : IsRun flaggedChoices flaggedRun := flaggedRun_isRun
theorem witness_EnabledAcceptanceEventuallyHappens : IsRun flaggedChoices flaggedRun ∧
    WeaklyFair flaggedChoices flaggedRun ∧ enabled (.acceptance .p1) (flaggedRun 3) = true :=
  ⟨flaggedRun_isRun, flaggedRun_fair, by decide +kernel⟩

end Sys2Proof.Tests
end

section
/-! The state's own statements (spec/10_state.md): who changes `GIE` and `WDT_GRACE`, what `IN` and the
registers with reserved values refuse, and the reset states. -/

namespace Sys2Proof.Machine

/-! ### What an operation and a step do to `GIE` and `WDT_GRACE` -/

@[simp] theorem fetch_withIesDraw_dropChoice (d : Byte) (s : State) :
    fetch (withIesDraw d (dropChoice s)) = fetch s := rfl

/-- No operation touches `WDT_GRACE`: its end is the sequencer's (41_control_ops.md R110). -/
theorem exec_wdtGrace {i : Instr} {s t : State} (h : exec i s = .next t) :
    t.wdtGrace = s.wdtGrace := by
  rcases exec_cases h with ⟨e, rfl⟩ | ⟨r, new, -, -, -, -, rfl, -⟩ | ⟨x, -, rfl, -⟩ |
    ⟨-, -, -, rfl⟩ | ⟨-, -, rfl⟩
  · exact withFault_wdtGrace e s
  · exact commitWrite_wdtGrace r new s
  · exact withPc_wdtGrace _ s
  · rfl
  · exact returnFromHandler_wdtGrace s

/-- `SLEEP` and `RETI` are the only operations that touch `GIE` (10_state.md R38). -/
theorem exec_gie_cases {i : Instr} {s t : State} (h : exec i s = .next t) :
    t.gie = s.gie ∨ i = .sleep ∨ i = .reti := by
  rcases exec_cases h with ⟨e, rfl⟩ | ⟨r, new, -, -, -, -, rfl, -⟩ | ⟨x, -, rfl, -⟩ |
    ⟨hi, -⟩ | ⟨hi, -⟩
  · exact .inl (withFault_gie e s)
  · exact .inl (commitWrite_gie r new s)
  · exact .inl (withPc_gie _ s)
  · exact .inr (.inl hi)
  · exact .inr (.inr hi)

/-- A sequencer step touches `GIE` only by executing `SLEEP` or `RETI`. -/
theorem operationStep_gie_cases {s t : State} (h : operationStep s = .next t) :
    t.gie = s.gie ∨ ∃ i, decode (fetch s) = .ok i ∧ (i = .sleep ∨ i = .reti) := by
  rcases operationStep_cases h with ⟨-, rfl⟩ | ⟨i, u, hi, hu, rfl⟩
  · exact .inl (withFault_gie _ s)
  · exact (exec_gie_cases hu).imp (completeOperation_gie u).trans fun h => ⟨i, hi, h⟩

/-- A sequencer step keeps `WDT_GRACE`, or an operation completed without a fault and cleared it. -/
theorem operationStep_wdtGrace_cases {s t : State} (h : operationStep s = .next t) :
    t.wdtGrace = s.wdtGrace ∨
      t.wdtGrace = false ∧ t.fault = none ∧ ∃ i, decode (fetch s) = .ok i := by
  rcases operationStep_cases h with ⟨-, rfl⟩ | ⟨i, u, hi, hu, rfl⟩
  · exact .inl (withFault_wdtGrace _ s)
  · rw [completeOperation_wdtGrace, completeOperation_fault, exec_wdtGrace hu]
    cases hf : u.fault with
    | none => exact .inr ⟨by simp, rfl, i, hi⟩
    | some f => exact .inl (by simp)

/-- An executed operation that ends without a fault leaves `WDT_GRACE` at 0 (41_control_ops.md R110). -/
theorem operationStep_wdtGrace_of_completed {i : Instr} {s t : State} (h : operationStep s = .next t)
    (hi : decode (fetch s) = .ok i) (hf : t.fault = none) : t.wdtGrace = false := by
  rcases operationStep_cases h with ⟨⟨e, he⟩, -⟩ | ⟨-, u, -, -, rfl⟩
  · cases hi.symm.trans he
  · rw [completeOperation_fault] at hf
    simp [completeOperation_wdtGrace, hf]

/-- Where the sequencer's operation is next and enabled, it is the step (70_reset_and_hazards.md R213). -/
theorem step_of_nextChoice_operation {s : State} {d : Byte} (hc : nextChoice s = .operation d)
    (hf : s.fault = none) (hl : s.lpm = .active) :
    step s = operationStep (withIesDraw d (dropChoice s)) := by
  have he : enabled (.operation d) (dropChoice s) = true := by
    simp [enabled, operationEnabled, hf, hl]
  rw [step, hc, takeChoice, if_pos he, perform]

/-- Acceptance clears `GIE`, or faults and leaves it (60_exceptions.md R178, R179). -/
theorem acceptInterrupt_gie_cases (p : PortId) (s : State) :
    (acceptInterrupt p s).gie = s.gie ∨ (acceptInterrupt p s).gie = false := by
  rcases acceptInterrupt_cases p s with ⟨-, h⟩ | ⟨v, -, h⟩
  · exact .inl (by rw [h, withFault_gie])
  · exact .inr (by rw [h])

/-- Everything a step can do to `GIE` (10_state.md R38): keep it, execute `SLEEP` or `RETI` in the active
mode, or clear it by acceptance or a reset. -/
theorem step_gie_cases {s t : State} (h : step s = .next t) :
    t.gie = s.gie ∨
      (s.lpm = .active ∧ ∃ d i, nextChoice s = .operation d ∧ decode (fetch s) = .ok i ∧
        (i = .sleep ∨ i = .reti)) ∨
      (t.gie = false ∧ ((∃ p, nextChoice s = .acceptance p) ∨
        ∃ d, nextChoice s = .watchdogExpiry d ∨ nextChoice s = .powerOnReset d)) := by
  rcases step_kinds h with rfl | ⟨d, hc, -, hl, hop⟩ | ⟨p, hc, -, -, -, rfl⟩ | ⟨-, -, rfl⟩ |
    ⟨cs, -, rfl⟩ | ⟨d, hc, rfl⟩
  · exact .inl (dropChoice_gie s)
  · exact (operationStep_gie_cases hop).imp_right fun ⟨i, hi⟩ => .inl ⟨hl, d, i, hc, hi⟩
  · exact (acceptInterrupt_gie_cases p (dropChoice s)).imp_right fun hg => .inr ⟨hg, .inl ⟨p, hc⟩⟩
  · exact .inl (timerTick_gie _)
  · exact .inl (environmentStep_gie cs _)
  · exact .inr (.inr ⟨resetStep_gie d _, .inr ⟨d, hc⟩⟩)

/-- Everything a step can do to `WDT_GRACE` (10_state.md R43): keep it, clear it at the end of an
operation that completed, or set it by a reset. -/
theorem step_wdtGrace_cases {s t : State} (h : step s = .next t) :
    t.wdtGrace = s.wdtGrace ∨
      (t.wdtGrace = false ∧ t.fault = none ∧ ∃ d i, nextChoice s = .operation d ∧
        decode (fetch s) = .ok i) ∨
      (t.wdtGrace = true ∧ ∃ d, nextChoice s = .watchdogExpiry d ∨ nextChoice s = .powerOnReset d) := by
  rcases step_kinds h with rfl | ⟨d, hc, -, -, hop⟩ | ⟨p, -, -, -, -, rfl⟩ | ⟨-, -, rfl⟩ |
    ⟨cs, -, rfl⟩ | ⟨d, hc, rfl⟩
  · exact .inl (dropChoice_wdtGrace s)
  · exact (operationStep_wdtGrace_cases hop).imp_right
      fun ⟨hg, hf, i, hi⟩ => .inl ⟨hg, hf, d, i, hc, hi⟩
  · exact .inl (acceptInterrupt_wdtGrace p _)
  · exact .inl (timerTick_wdtGrace _)
  · exact .inl (environmentStep_wdtGrace cs _)
  · exact .inr (.inr ⟨resetStep_wdtGrace d _, d, hc⟩)

/-! ### The write path's checks of the register and of the result -/

/-- Check 2 of 40_register_ops.md R100: a write to a read-only register faults, whatever the immediate and
the kind of write. -/
theorem writePath_of_readOnly {a : RegAddr} {r : Reg} (k : Half) (f : Half → Half → Half) (s : State)
    (hr : regAt a = some r) (hro : r.readOnly = true) :
    writePath a k f s = .next (withFault (.readOnlyWrite a) s) := by
  simp [writePath, hr, hro, raise_eq]

/-- Check 5 of 40_register_ops.md R100: a write whose result is no legal value faults. -/
theorem writePath_of_not_legalValue {a : RegAddr} {r : Reg} {k : Half} {f : Half → Half → Half}
    {s : State} (hr : regAt a = some r) (hro : r.readOnly = false) (hfit : immediateFits r k = true)
    (hleg : legalValue r (f (readReg s r) k) = false) :
    writePath a k f s = .next (withFault (.reservedValue a (f (readReg s r) k)) s) := by
  simp [writePath, hr, hro, hfit, hleg, raise_eq]

/-- An illegal result `v` faults with `ReservedValue` in each of the three register operations: the value
judged is the one that would be written, not the mask (10_state.md R34, R35, R37). -/
theorem exec_of_not_legalValue {a : RegAddr} {r : Reg} {k v : Half} {i : Instr} {s : State}
    (hr : regAt a = some r) (hro : r.readOnly = false) (hw : r.width = 16)
    (hleg : legalValue r v = false)
    (hi : i = .wr a k ∧ v = k ∨ i = .bis a k ∧ v = readReg s r ||| k ∨
      i = .bic a k ∧ v = readReg s r &&& ~~~k) :
    exec i s = .next (withFault (.reservedValue a v) s) := by
  have hfit : immediateFits r k = true := by simp [immediateFits, hw]
  rcases hi with ⟨rfl, rfl⟩ | ⟨rfl, rfl⟩ | ⟨rfl, rfl⟩
  · exact writePath_of_not_legalValue (f := writeValue) hr hro hfit hleg
  · exact writePath_of_not_legalValue (f := setBits) hr hro hfit hleg
  · exact writePath_of_not_legalValue (f := clearBits) hr hro hfit hleg

/-- Bit `b` of an `IN` register is the level of pin `b` (10_state.md R22). -/
theorem getLsbD_readReg_portIn (s : State) (p : PortId) (b : Pin) :
    (readReg s (.portIn p)).getLsbD b = level s p b := by
  have hb : b.val < 16 := by omega
  simp only [readReg, inputByte, BitVec.getLsbD_setWidth, hb, decide_true, Bool.true_and,
    getLsbD_ofPins]

end Sys2Proof.Machine

namespace Sys2Proof.Safety

open Sys2Proof.Machine

/-! ### The reset table -/

/-- The entries of the reset table of 10_state.md section 8 (R46) that are no draw. -/
structure ResetTable (s : State) : Prop where
  port : ∀ p, (s.port p).dir = 0x00 ∧ (s.port p).ren = 0x00 ∧ (s.port p).sel = 0x00 ∧
    (s.port p).sel2 = 0x00 ∧ (s.port p).ie = 0x00 ∧ (s.port p).ifg = 0x00
  tcnt : s.tcnt = 0x0000
  tperiod : s.tperiod = 0x0000
  tcompare : s.tcompare = 0x0000
  tctl : s.tctl = 0x0000
  tcctl : s.tcctl = 0x0000
  wdt : s.wdt = 0x0000
  wdtGrace : s.wdtGrace = true
  gie : s.gie = false
  lpm : s.lpm = .active
  pc : s.pc = 0x00
  inh : s.inh = false
  fault : s.fault = none

/-- The draws with which the reset step would give the drawn components of `s`. -/
def drawsOf (s : State) : ResetDraws where
  out0 := s.port0.out
  out1 := s.port1.out
  ies0 := s.port0.ies
  ies1 := s.port1.ies
  clkrange := s.clkrange
  clkdco := s.clkdco
  saved := s.saved

theorem resetTable_resetStep (d : ResetDraws) (s : State) : ResetTable (resetStep d s) where
  port p := by cases p <;> exact ⟨rfl, rfl, rfl, rfl, rfl, rfl⟩
  tcnt := rfl
  tperiod := rfl
  tcompare := rfl
  tctl := rfl
  tcctl := rfl
  wdt := rfl
  wdtGrace := rfl
  gie := rfl
  lpm := rfl
  pc := rfl
  inh := rfl
  fault := rfl

/-- A port with the table's values is the reset port of its own `OUT` and `IES`. -/
theorem eq_resetPort {r : PortRegs} (h : r.dir = 0x00 ∧ r.ren = 0x00 ∧ r.sel = 0x00 ∧ r.sel2 = 0x00 ∧
    r.ie = 0x00 ∧ r.ifg = 0x00) : r = resetPort r.out r.ies := by
  obtain ⟨out, dir, ren, ies, sel, sel2, ie, ifg⟩ := r
  obtain ⟨rfl, rfl, rfl, rfl, rfl, rfl⟩ := h
  rfl

/-- A state with the table's values is fixed by the reset step that draws what it holds. -/
theorem ResetTable.eq_resetStep {s : State} (h : ResetTable s) : s = resetStep (drawsOf s) s := by
  have h0 : s.port0 = resetPort s.port0.out s.port0.ies := eq_resetPort (h.port .p0)
  have h1 : s.port1 = resetPort s.port1.out s.port1.ies := eq_resetPort (h.port .p1)
  obtain ⟨-, htcnt, htperiod, htcompare, htctl, htcctl, hwdt, hgrace, hgie, hlpm, hpc, hinh, hfault⟩ := h
  cases s
  subst htcnt htperiod htcompare htctl htcctl hwdt hgrace hgie hlpm hpc hinh hfault
  simp only [resetStep, drawsOf, State.mk.injEq, and_true]
  exact ⟨h0, h1⟩

/-- The reset states are the states with the table's values, a canonical program store and parameters
within their constraint. -/
theorem isResetState_iff (s : State) :
    IsResetState s ↔ ResetTable s ∧ Memory.wf s.rom = true ∧ s.params.wf = true := by
  refine and_congr_left fun _ => ⟨?_, fun h => ⟨drawsOf s, h.eq_resetStep⟩⟩
  rintro ⟨d, hd⟩
  rw [hd]
  exact resetTable_resetStep d s

theorem isResetState_reset : IsResetState State.reset :=
  ⟨⟨Config.namedDraws, rfl⟩, Memory.wf_ofWords Config.referenceWords, by decide⟩

end Sys2Proof.Safety

namespace Sys2Proof.Proofs

open Sys2Proof.Machine Sys2Proof.Safety

/-- Settles O18. The mode invariant has the machine waiting whenever `GIE` is 1, so no operation can
clear it. -/
theorem gieChangesOnlyBySleepRetiAcceptanceAndReset :
    Obligations.GieChangesOnlyBySleepRetiAcceptanceAndReset := by
  rintro s t ⟨⟨hmode, -⟩, -⟩ h
  rcases step_gie_cases h with hkeep | ⟨hactive, d, i, hop⟩ | ⟨hclear, hcause⟩
  · exact ⟨fun h0 h1 => by simp [hkeep, h0] at h1, fun h1 h0 => by simp [hkeep, h1] at h0⟩
  · refine ⟨fun _ _ => ⟨d, i, hop⟩, fun h1 _ => ?_⟩
    cases hactive.symm.trans (hmode.mp h1)
  · exact ⟨fun _ h1 => by simp [hclear] at h1, fun _ _ => hcause⟩

/-- Settles O21, from the inversion of a step's effect on `WDT_GRACE`. -/
theorem graceEndsWithTheFirstCompletedOperation :
    Obligations.GraceEndsWithTheFirstCompletedOperation := by
  intro s t h
  refine ⟨fun d i hc hf hl hi ht => ?_, ?_⟩
  · rw [step_of_nextChoice_operation hc hf hl] at h
    exact operationStep_wdtGrace_of_completed h hi ht
  · rcases step_wdtGrace_cases h with hkeep | ⟨hclear, hcause⟩ | ⟨hset, hcause⟩
    · exact ⟨fun h1 h0 => by simp [hkeep, h1] at h0, fun h0 h1 => by simp [hkeep, h0] at h1⟩
    · exact ⟨fun _ _ => hcause, fun _ h1 => by simp [hclear] at h1⟩
    · exact ⟨fun _ h0 => by simp [hset] at h0, fun _ _ => hcause⟩

/-- Settles O29: check 2 of the write path refuses every write before the immediate is looked at. -/
theorem inputRegisterReadsLevelsAndRefusesWrites :
    Obligations.InputRegisterReadsLevelsAndRefusesWrites := by
  intro s p
  have hlt : (readReg s (.portIn p)).toNat < 0x100 := readReg_lt s rfl
  have hro := fun k f => writePath_of_readOnly k f s (regAt_addr (.portIn p)) rfl
  exact ⟨getLsbD_readReg_portIn s p, Nat.le_of_lt_succ hlt,
    fun k => ⟨hro k writeValue, hro k setBits, hro k clearBits⟩⟩

/-- Settles O31, register by register. -/
theorem reservedValueFaults : Obligations.ReservedValueFaults := by
  rintro s k v i a (⟨rfl, h0, h1, h2, hi⟩ | ⟨rfl, h0, h1, h2, hi⟩ | ⟨rfl, h0, h1, hi⟩)
  · exact exec_of_not_legalValue (r := .tctl) (by decide) rfl rfl
      (by simpa [legalValue] using ⟨⟨h0, h1⟩, h2⟩) hi
  · exact exec_of_not_legalValue (r := .tcctl) (by decide) rfl rfl
      (by simpa [legalValue] using ⟨⟨h0, h1⟩, h2⟩) hi
  · exact exec_of_not_legalValue (r := .wdt) (by decide) rfl rfl
      (by simpa [legalValue] using ⟨h0, h1⟩) hi

/-- Settles O58. -/
theorem resetStatesAreThoseOfTheTable : Obligations.ResetStatesAreThoseOfTheTable := by
  refine ⟨isResetState_reset, fun s => (isResetState_iff s).trans ⟨?_, ?_⟩⟩
  · rintro ⟨⟨hport, htcnt, htperiod, htcompare, htctl, htcctl, hwdt, hgrace, hgie, hlpm, hpc, hinh,
      hfault⟩, hrom, hparams⟩
    exact ⟨hport, htcnt, htperiod, htcompare, htctl, htcctl, hwdt, hgrace, hgie, hlpm, hpc, hinh,
      hfault, hrom, hparams⟩
  · rintro ⟨hport, htcnt, htperiod, htcompare, htctl, htcctl, hwdt, hgrace, hgie, hlpm, hpc, hinh,
      hfault, hrom, hparams⟩
    exact ⟨⟨hport, htcnt, htperiod, htcompare, htctl, htcctl, hwdt, hgrace, hgie, hlpm, hpc, hinh,
      hfault⟩, hrom, hparams⟩

/-- Settles O55: `State.reset` is a reset state, so it holds the table's values. -/
theorem stateResetHoldsTheSpecifiedValues : Obligations.StateResetHoldsTheSpecifiedValues := by
  obtain ⟨h, -⟩ := (isResetState_iff State.reset).mp isResetState_reset
  exact ⟨h.pc, h.gie, h.lpm, h.inh, h.fault, h.wdt, h.wdtGrace, h.tctl, h.tcctl, h.tcnt, h.tperiod,
    h.tcompare, h.port⟩

end Sys2Proof.Proofs
end

section
/-! The memory's own statements (spec/20_memory.md): the register map, the fault of an unmapped address,
and the program store that no step writes. -/

namespace Sys2Proof.Machine

/-! ### The register map and its inverse -/

theorem addr_of_portRegAt {p : PortId} {k : Nat} {r : Reg} (h : portRegAt p k = some r) :
    r.addr = BitVec.ofNat 8 (0x10 + 0x10 * p.num + k) := by
  unfold portRegAt at h
  split at h <;> cases h <;> rfl

theorem addr_of_deviceRegAt {n : Nat} {r : Reg} (h : deviceRegAt n = some r) :
    r.addr = BitVec.ofNat 8 n := by
  unfold deviceRegAt at h
  split at h <;> cases h <;> rfl

/-- The register map answers a register at the register's own address only (20_memory.md R61). -/
theorem addr_of_regAt {a : RegAddr} {r : Reg} (h : regAt a = some r) : r.addr = a := by
  have hofNat {n : Nat} (hn : n = a.toNat) : BitVec.ofNat 8 n = a := by
    rw [hn, BitVec.ofNat_toNat, BitVec.setWidth_eq]
  unfold regAt at h
  split_ifs at h with h10 h20 h30
  · exact (addr_of_portRegAt h).trans (hofNat (by simp only [PortId.num]; omega))
  · exact (addr_of_portRegAt h).trans (hofNat (by simp only [PortId.num]; omega))
  · exact (addr_of_deviceRegAt h).trans (hofNat rfl)

/-- `regAt` and `Reg.addr` are inverse to each other (20_memory.md R61, 30_encoding.md R92). -/
theorem regAt_eq_some_iff {a : RegAddr} {r : Reg} : regAt a = some r ↔ r.addr = a :=
  ⟨addr_of_regAt, fun h => h ▸ regAt_addr r⟩

/-- The table of 20_memory.md R61, row by row. -/
def registerMap : List (RegAddr × Reg) := [
  (0x10, .portIn .p0), (0x11, .portOut .p0), (0x12, .portDir .p0), (0x13, .portRen .p0),
  (0x14, .portIes .p0), (0x15, .portSel .p0), (0x16, .portSel2 .p0), (0x17, .portIe .p0),
  (0x18, .portIfg .p0),
  (0x20, .portIn .p1), (0x21, .portOut .p1), (0x22, .portDir .p1), (0x23, .portRen .p1),
  (0x24, .portIes .p1), (0x25, .portSel .p1), (0x26, .portSel2 .p1), (0x27, .portIe .p1),
  (0x28, .portIfg .p1),
  (0x80, .tctl), (0x81, .tcctl), (0x82, .tcnt), (0x83, .tperiod), (0x84, .tcompare),
  (0x90, .clkrange), (0x91, .clkdco), (0xA0, .wdt)]

theorem addr_mem_registerMap (r : Reg) : (r.addr, r) ∈ registerMap := by
  cases r with
  | portIn p | portOut p | portDir p | portRen p | portIes p | portSel p | portSel2 p | portIe p
  | portIfg p => cases p <;> decide
  | _ => decide

theorem addr_of_mem_registerMap : ∀ row ∈ registerMap, row.2.addr = row.1 := by
  decide

/-- The register map has exactly the rows of the table (20_memory.md R61). -/
theorem regAt_eq_some_iff_mem_registerMap (a : RegAddr) (r : Reg) :
    regAt a = some r ↔ (a, r) ∈ registerMap := by
  rw [regAt_eq_some_iff]
  exact ⟨fun h => h ▸ addr_mem_registerMap r, addr_of_mem_registerMap (a, r)⟩

theorem portRegAt_eq_none_iff (p : PortId) (k : Nat) : portRegAt p k = none ↔ 8 < k := by
  unfold portRegAt
  split
  case h_10 =>
    simp only [imp_false, true_iff] at *
    omega
  all_goals simp

theorem deviceRegAt_eq_none_iff (n : Nat) : deviceRegAt n = none ↔
    ¬((0x80 ≤ n ∧ n ≤ 0x84) ∨ n = 0x90 ∨ n = 0x91 ∨ n = 0xA0) := by
  unfold deviceRegAt
  split
  case h_9 =>
    simp only [imp_false, true_iff] at *
    omega
  all_goals simp

/-- The unmapped addresses, by the ranges that the table leaves out (20_memory.md R61, R64). -/
theorem regAt_eq_none_iff (a : RegAddr) : regAt a = none ↔
    ¬((0x10 ≤ a.toNat ∧ a.toNat ≤ 0x18) ∨ (0x20 ≤ a.toNat ∧ a.toNat ≤ 0x28) ∨
      (0x80 ≤ a.toNat ∧ a.toNat ≤ 0x84) ∨ a = 0x90 ∨ a = 0x91 ∨ a = 0xA0) := by
  have h90 : a = 0x90 ↔ a.toNat = 0x90 := BitVec.toNat_inj.symm
  have h91 : a = 0x91 ↔ a.toNat = 0x91 := BitVec.toNat_inj.symm
  have hA0 : a = 0xA0 ↔ a.toNat = 0xA0 := BitVec.toNat_inj.symm
  rw [h90, h91, hA0]
  unfold regAt
  split_ifs with h10 h20 h30
  · simp only [true_iff]; omega
  · rw [portRegAt_eq_none_iff]; omega
  · rw [portRegAt_eq_none_iff]; omega
  · rw [deviceRegAt_eq_none_iff]; omega

theorem readOnly_iff (r : Reg) : r.readOnly = true ↔ ∃ p, r = .portIn p := by
  cases r <;> simp [Reg.readOnly]

/-- The timer registers and `WDT` are 16 bits wide, every other register 8 (20_memory.md R61). -/
theorem width_eq (r : Reg) : r.width =
    if r = .tctl ∨ r = .tcctl ∨ r = .tcnt ∨ r = .tperiod ∨ r = .tcompare ∨ r = .wdt
      then 16 else 8 := by
  cases r <;> simp [Reg.width]

/-! ### The fault of an unmapped address -/

theorem regAt_eq_none_of_addr_ne {a : RegAddr} (h : ∀ r : Reg, r.addr ≠ a) : regAt a = none :=
  Option.eq_none_iff_forall_ne_some.mpr fun r hr => h r (addr_of_regAt hr)

/-- Check 1 of 40_register_ops.md R100: a write to an unmapped address faults, whatever the immediate and
the kind of write. -/
theorem writePath_of_unmapped {a : RegAddr} (k : Half) (f : Half → Half → Half) (s : State)
    (h : regAt a = none) : writePath a k f s = .next (withFault (.badRegister a) s) := by
  simp [writePath, h, raise_eq]

/-- `BBS` on an unmapped address faults before it looks at the bit (41_control_ops.md R111). -/
theorem execBbs_of_unmapped {a : RegAddr} (bit : Nat) (off : Int) (s : State)
    (h : regAt a = none) : execBbs a bit off s = .next (withFault (.badRegister a) s) := by
  simp [execBbs, h, raise_eq]

/-! ### What no step changes: the program store and the parameters -/

/-- `t` holds the program store and the parameters of `s` (10_state.md R45). -/
structure SameParameters (s t : State) : Prop where
  rom : t.rom = s.rom
  params : t.params = s.params

theorem SameParameters.trans {s t u : State} (h : SameParameters s t) (h' : SameParameters t u) :
    SameParameters s u :=
  ⟨h'.rom.trans h.rom, h'.params.trans h.params⟩

/-- No operation writes the program store or a parameter. -/
theorem exec_sameParameters {i : Instr} {s t : State} (h : exec i s = .next t) :
    SameParameters s t := by
  rcases exec_cases h with ⟨e, rfl⟩ | ⟨r, new, -, -, -, -, rfl, -⟩ | ⟨x, -, rfl, -⟩ |
    ⟨-, -, -, rfl⟩ | ⟨-, -, rfl⟩
  · exact ⟨withFault_rom e s, withFault_params e s⟩
  · exact ⟨commitWrite_rom r new s, commitWrite_params r new s⟩
  · exact ⟨withPc_rom _ s, withPc_params _ s⟩
  · exact ⟨rfl, rfl⟩
  · exact ⟨returnFromHandler_rom s, returnFromHandler_params s⟩

/-- Neither the fault of an illegal word nor the end of an operation adds a write of its own. -/
theorem operationStep_sameParameters {s t : State} (h : operationStep s = .next t) :
    SameParameters s t := by
  rcases operationStep_cases h with ⟨-, rfl⟩ | ⟨i, u, -, hu, rfl⟩
  · exact ⟨withFault_rom _ s, withFault_params _ s⟩
  · exact (exec_sameParameters hu).trans ⟨completeOperation_rom u, completeOperation_params u⟩

/-- No step of any kind writes the program store or a parameter (20_memory.md R71, 10_state.md R45). -/
theorem step_sameParameters {s t : State} (h : step s = .next t) : SameParameters s t := by
  have hdrop : SameParameters s (dropChoice s) := ⟨dropChoice_rom s, dropChoice_params s⟩
  rcases step_kinds h with rfl | ⟨d, -, -, -, hop⟩ | ⟨p, -, -, -, -, rfl⟩ | ⟨-, -, rfl⟩ |
    ⟨cs, -, rfl⟩ | ⟨d, -, rfl⟩
  · exact hdrop
  · have hdraw : SameParameters (dropChoice s) (withIesDraw d (dropChoice s)) :=
      ⟨withIesDraw_rom d _, withIesDraw_params d _⟩
    exact (hdrop.trans hdraw).trans (operationStep_sameParameters hop)
  · exact hdrop.trans ⟨acceptInterrupt_rom p _, acceptInterrupt_params p _⟩
  · exact hdrop.trans ⟨timerTick_rom _, timerTick_params _⟩
  · exact hdrop.trans ⟨environmentStep_rom cs _, environmentStep_params cs _⟩
  · exact hdrop.trans ⟨resetStep_rom d _, resetStep_params d _⟩

end Sys2Proof.Machine

namespace Sys2Proof.Proofs

open Sys2Proof.Machine

/-- Settles O15: a store that no step writes reads the same at every address. -/
theorem noStepWritesTheProgramStore : Obligations.NoStepWritesTheProgramStore := by
  intro s t h
  obtain ⟨hrom, hparams⟩ := step_sameParameters h
  exact ⟨hrom, fun a => by rw [hrom], hparams⟩

/-- Settles O28: check 1 of the write path, and the first check of `BBS`. -/
theorem unmappedAddressFaults : Obligations.UnmappedAddressFaults := by
  intro s a h
  have hnone := regAt_eq_none_of_addr_ne h
  exact ⟨fun k => writePath_of_unmapped k writeValue s hnone,
    fun k => writePath_of_unmapped k setBits s hnone,
    fun k => writePath_of_unmapped k clearBits s hnone,
    fun bit off => execBbs_of_unmapped bit off s hnone⟩

/-- Settles O33: the map in both directions, then the width, the access and the reading of each
register, which the model gives register by register. -/
theorem registerMapIsAsTheTableSays : Obligations.RegisterMapIsAsTheTableSays := by
  refine ⟨regAt_eq_some_iff_mem_registerMap, regAt_eq_none_iff,
    fun r => ⟨regAt_addr r, readOnly_iff r, width_eq r⟩, fun s p => ⟨?ports, ?devices⟩⟩
  case ports => exact ⟨rfl, rfl, rfl, rfl, rfl, rfl, rfl, rfl, rfl⟩
  case devices => exact ⟨rfl, rfl, rfl, rfl, rfl, rfl, rfl, rfl⟩

end Sys2Proof.Proofs
end

section
/-! The encoding's own statements (spec/30_encoding.md): decoder and encoder are inverse to each other, the
match and mask values, the illegal words, and the faults of an operand that does not fit its register. -/

namespace Sys2Proof

/-! ### A word is its fields -/

/-- Two neighbouring fields of a word are one field. -/
theorem extractLsb'_append_below (w : OpWord) (start low high : Nat) :
    w.extractLsb' (start + low) high ++ w.extractLsb' start low = w.extractLsb' start (high + low) :=
  BitVec.extractLsb'_append_extractLsb'_eq_extractLsb' rfl

/-- A word is its four fields of format R (30_encoding.md R80, R81). -/
theorem append_fields (w : OpWord) : opField w ++ regField w ++ subField w ++ immField w = w := by
  have hreg : opField w ++ regField w = w.extractLsb' 20 12 := extractLsb'_append_below w 20 8 4
  have hsub : w.extractLsb' 20 12 ++ subField w = w.extractLsb' 16 16 :=
    extractLsb'_append_below w 16 4 12
  have himm : w.extractLsb' 16 16 ++ immField w = w.extractLsb' 0 32 :=
    extractLsb'_append_below w 0 16 16
  rw [hreg, hsub, himm, BitVec.extractLsb'_eq_self]

/-- The low half of a word is the middle byte and the offset of format B (30_encoding.md R82). -/
theorem immField_eq_append (w : OpWord) : immField w = midField w ++ offField w :=
  (extractLsb'_append_below w 0 8 8).symm

/-- Bits 27:8 are `reg`, bits 19:16 and bits 15:8 (30_encoding.md R82, R89). -/
theorem brZeroField_eq_append (w : OpWord) :
    brZeroField w = regField w ++ subField w ++ midField w := by
  have hsub : regField w ++ subField w = w.extractLsb' 16 12 := extractLsb'_append_below w 16 4 8
  have hmid : w.extractLsb' 16 12 ++ midField w = brZeroField w := extractLsb'_append_below w 8 8 12
  rw [hsub, hmid]

/-- A word is its opcode and the 28 bits below (30_encoding.md R83). -/
theorem opField_append_noOperandField (w : OpWord) : opField w ++ noOperandField w = w :=
  (extractLsb'_append_below w 0 28 4).trans BitVec.extractLsb'_eq_self

theorem append_eq_zero_iff {m n : Nat} (x : BitVec m) (y : BitVec n) :
    x ++ y = 0 ↔ x = 0 ∧ y = 0 := by
  refine ⟨fun h => ⟨?_, ?_⟩, ?_⟩
  · rw [← BitVec.extractLsb'_append_eq_left (a := x) (b := y), h]
    exact BitVec.extractLsb'_zero
  · rw [← BitVec.extractLsb'_append_eq_right (a := x) (b := y), h]
    exact BitVec.extractLsb'_zero
  · rintro ⟨rfl, rfl⟩
    exact BitVec.zero_append_zero

/-- The must-be-zero bits of `BR` are three fields (30_encoding.md R89). -/
theorem brZeroField_eq_zero_iff (w : OpWord) :
    brZeroField w = 0 ↔ regField w = 0 ∧ subField w = 0 ∧ midField w = 0 := by
  rw [brZeroField_eq_append, ← and_assoc, ← append_eq_zero_iff, ← append_eq_zero_iff]

/-! ### A word whose must-be-zero bits hold 0 is the word of its format -/

theorem formatR_fields {w : OpWord} (h : subField w = 0) :
    formatR (opField w) (regField w) (immField w) = w := by
  rw [formatR, ← h, append_fields]

theorem formatB_fields {w : OpWord} (h : midField w = 0) :
    formatB (opField w) (regField w) (subField w) (offField w) = w := by
  conv_rhs => rw [← append_fields w, immField_eq_append, h]
  exact BitVec.append_assoc

theorem formatB_branch_fields {w : OpWord} (h : brZeroField w = 0) :
    formatB (opField w) 0 0 (offField w) = w := by
  obtain ⟨hreg, hsub, hmid⟩ := (brZeroField_eq_zero_iff w).mp h
  simpa only [hreg, hsub] using formatB_fields hmid

theorem formatN_fields {w : OpWord} (h : noOperandField w = 0) : formatN (opField w) = w := by
  rw [formatN, ← h, opField_append_noOperandField]

theorem opField_formatN (op : BitVec 4) : opField (formatN op) = op :=
  BitVec.extractLsb'_append_eq_left

theorem noOperandField_formatN (op : BitVec 4) : noOperandField (formatN op) = 0 :=
  BitVec.extractLsb'_append_eq_right

/-! ### What the decoder reads -/

/-- The opcode and the must-be-zero bits of `w` are those of `i`'s row and its other fields are the
operands of `i` (30_encoding.md R81 to R84, R89). -/
def FieldsRead (w : OpWord) : Instr → Prop
  | .wr reg imm => opField w = 1 ∧ subField w = 0 ∧ regField w = reg ∧ immField w = imm
  | .bis reg imm => opField w = 2 ∧ subField w = 0 ∧ regField w = reg ∧ immField w = imm
  | .bic reg imm => opField w = 3 ∧ subField w = 0 ∧ regField w = reg ∧ immField w = imm
  | .bbs reg bit off => opField w = 4 ∧ midField w = 0 ∧ regField w = reg ∧
      (subField w).toNat = bit ∧ (offField w).toInt = off
  | .br off => opField w = 5 ∧ brZeroField w = 0 ∧ (offField w).toInt = off
  | .sleep => opField w = 6 ∧ noOperandField w = 0
  | .reti => opField w = 7 ∧ noOperandField w = 0

theorem ifZero_eq_ok_iff {zero : Bool} {i j : Instr} :
    ifZero zero i = .ok j ↔ zero = true ∧ i = j := by
  cases zero <;> simp [ifZero]

theorem exists_ifZero_eq_error_iff {zero : Bool} {i : Instr} :
    (∃ e, ifZero zero i = .error e) ↔ zero = false := by
  cases zero <;> simp [ifZero]

/-- The decoder, row by row: it answers the operation whose fields the word holds (30_encoding.md R91). -/
theorem decode_eq_ok_iff {w : OpWord} {i : Instr} : decode w = .ok i ↔ FieldsRead w i := by
  constructor
  · intro h
    unfold decode at h
    split at h
    case h_8 => cases h
    all_goals
      rename_i hop
      obtain ⟨hzero, rfl⟩ := ifZero_eq_ok_iff.mp h
      simp_all [FieldsRead, ← BitVec.toNat_inj]
  · intro h
    cases i <;> simp_all [FieldsRead, decode, ifZero]

/-- R89 and R90 by the decoder's own fields: an unused opcode, or a must-be-zero field of the opcode's row
that is not zero. -/
theorem exists_decode_eq_error_iff (w : OpWord) : (∃ e, decode w = .error e) ↔
    opField w = 0 ∨ 8 ≤ (opField w).toNat ∨
      ((opField w = 1 ∨ opField w = 2 ∨ opField w = 3) ∧ subField w ≠ 0) ∨
      (opField w = 4 ∧ midField w ≠ 0) ∨ (opField w = 5 ∧ brZeroField w ≠ 0) ∨
      ((opField w = 6 ∨ opField w = 7) ∧ noOperandField w ≠ 0) := by
  simp only [← BitVec.toNat_inj (x := opField w)]
  unfold decode
  split
  case h_8 =>
    have hunused : (opField w).toNat = 0 ∨ 8 ≤ (opField w).toNat := by
      simp only [imp_false] at *
      omega
    exact iff_of_true ⟨_, rfl⟩ (hunused.imp_right .inl)
  all_goals
    rename_i hop
    simp [hop, exists_ifZero_eq_error_iff]

/-! ### The match and mask values -/

/-- A field that lies under the mask has the field's value in the match. -/
theorem field_of_and_eq {w mask value : OpWord} {start len : Nat} {x : BitVec len}
    (h : w &&& mask = value)
    (hx : mask.extractLsb' start len = BitVec.allOnes len ∧ value.extractLsb' start len = x) :
    w.extractLsb' start len = x := by
  obtain ⟨hmask, hvalue⟩ := hx
  rw [← hvalue, ← h, BitVec.extractLsb'_and, hmask, BitVec.and_allOnes]

/-- A word that passes the mask and match test of a row is read as an operation of that row. -/
theorem exists_fieldsRead_of_and_eq {w : OpWord} {i : Instr} (h : w &&& rowMask i = rowMatch i) :
    ∃ j, FieldsRead w j ∧ rowMatch j = rowMatch i := by
  cases i with
  | wr =>
    have h : w &&& 0xF00F0000 = 0x10000000 := h
    exact ⟨.wr (regField w) (immField w),
      ⟨field_of_and_eq h (by decide), field_of_and_eq h (by decide), rfl, rfl⟩, rfl⟩
  | bis =>
    have h : w &&& 0xF00F0000 = 0x20000000 := h
    exact ⟨.bis (regField w) (immField w),
      ⟨field_of_and_eq h (by decide), field_of_and_eq h (by decide), rfl, rfl⟩, rfl⟩
  | bic =>
    have h : w &&& 0xF00F0000 = 0x30000000 := h
    exact ⟨.bic (regField w) (immField w),
      ⟨field_of_and_eq h (by decide), field_of_and_eq h (by decide), rfl, rfl⟩, rfl⟩
  | bbs =>
    have h : w &&& 0xF000FF00 = 0x40000000 := h
    exact ⟨.bbs (regField w) (subField w).toNat (offField w).toInt,
      ⟨field_of_and_eq h (by decide), field_of_and_eq h (by decide), rfl, rfl, rfl⟩, rfl⟩
  | br =>
    have h : w &&& 0xFFFFFF00 = 0x50000000 := h
    exact ⟨.br (offField w).toInt,
      ⟨field_of_and_eq h (by decide), field_of_and_eq h (by decide), rfl⟩, rfl⟩
  | sleep =>
    have h : w &&& 0xFFFFFFFF = 0x60000000 := h
    exact ⟨.sleep, ⟨field_of_and_eq h (by decide), field_of_and_eq h (by decide)⟩, rfl⟩
  | reti =>
    have h : w &&& 0xFFFFFFFF = 0x70000000 := h
    exact ⟨.reti, ⟨field_of_and_eq h (by decide), field_of_and_eq h (by decide)⟩, rfl⟩

/-- The word of every operation spells its own row (30_encoding.md R91). -/
theorem encode_and_rowMask (i : Instr) : encode i &&& rowMask i = rowMatch i := by
  have h : Laws.SpellsOwnRow.Statement i := by
    cases i with
    | wr reg imm => exact Laws.SpellsOwnRow.wr reg imm
    | bis reg imm => exact Laws.SpellsOwnRow.bis reg imm
    | bic reg imm => exact Laws.SpellsOwnRow.bic reg imm
    | bbs reg bit off => exact Laws.SpellsOwnRow.bbs reg bit off
    | br off => exact Laws.SpellsOwnRow.br off
    | sleep => exact Laws.SpellsOwnRow.sleep
    | reti => exact Laws.SpellsOwnRow.reti
  exact eq_of_beq h

/-- The mask of the row whose match value is `value` (30_encoding.md R91). -/
def maskOfMatch (value : OpWord) : OpWord :=
  if value = 0x40000000 then 0xF000FF00
  else if value = 0x50000000 then 0xFFFFFF00
  else if value = 0x60000000 ∨ value = 0x70000000 then 0xFFFFFFFF
  else 0xF00F0000

/-- No two rows share a match value, so it names the row and with it the mask. -/
theorem maskOfMatch_rowMatch (i : Instr) : maskOfMatch (rowMatch i) = rowMask i := by
  cases i <;> rfl

/-! ### Decoder and encoder -/

theorem toInt_ofInt_of_offsetFits {off : Int} (h : offsetFits off = true) :
    (BitVec.ofInt 8 off).toInt = off := by
  simp only [offsetFits, Bool.and_eq_true, decide_eq_true_eq] at h
  exact BitVec.toInt_ofInt_eq_self (by omega) (by omega) (by omega)

theorem offsetFits_toInt (x : BitVec 8) : offsetFits x.toInt = true := by
  have hlow := BitVec.le_toInt x
  have hhigh := BitVec.toInt_lt (x := x)
  simp only [offsetFits, Bool.and_eq_true, decide_eq_true_eq]
  omega

theorem bitIndexFits_toNat (x : BitVec 4) : bitIndexFits x.toNat = true :=
  decide_eq_true x.isLt

/-- The word of a well-formed operation holds the operation's fields (30_encoding.md R81 to R84). -/
theorem fieldsRead_encode {i : Instr} (h : i.wf = true) : FieldsRead (encode i) i := by
  cases i with
  | wr reg imm | bis reg imm | bic reg imm =>
    exact ⟨opField_formatR _ _ _, subField_formatR _ _ _, regField_formatR _ _ _,
      immField_formatR _ _ _⟩
  | bbs reg bit off =>
    obtain ⟨hbit, hoff⟩ := Bool.and_eq_true_iff.mp h
    refine ⟨opField_formatB _ _ _ _, midField_formatB _ _ _ _, regField_formatB _ _ _ _, ?_, ?_⟩
    · rw [encode, subField_formatB]
      exact Nat.mod_eq_of_lt (of_decide_eq_true hbit)
    · rw [encode, offField_formatB, toInt_ofInt_of_offsetFits hoff]
  | br off =>
    refine ⟨opField_formatB _ _ _ _, brZeroField_formatB _ _, ?_⟩
    rw [encode, offField_formatB, toInt_ofInt_of_offsetFits h]
  | sleep | reti => exact ⟨opField_formatN _, noOperandField_formatN _⟩

/-- An operation read from a word is one that a word can spell (30_encoding.md R86 to R88). -/
theorem FieldsRead.wf {w : OpWord} {i : Instr} (h : FieldsRead w i) : i.wf = true := by
  cases i with
  | bbs reg bit off =>
    obtain ⟨-, -, -, rfl, rfl⟩ := h
    exact Bool.and_eq_true_iff.mpr ⟨bitIndexFits_toNat _, offsetFits_toInt _⟩
  | br off =>
    obtain ⟨-, -, rfl⟩ := h
    exact offsetFits_toInt _
  | wr | bis | bic | sleep | reti => rfl

/-- The fields of a word, with the zeros between them, are all of it (30_encoding.md R81 to R84). -/
theorem FieldsRead.encode_eq {w : OpWord} {i : Instr} (h : FieldsRead w i) : encode i = w := by
  cases i with
  | wr reg imm | bis reg imm | bic reg imm =>
    obtain ⟨hop, hzero, rfl, rfl⟩ := h
    rw [encode, ← hop, formatR_fields hzero]
  | bbs reg bit off =>
    obtain ⟨hop, hzero, rfl, rfl, rfl⟩ := h
    rw [encode, BitVec.ofNat_toNat, BitVec.setWidth_eq, BitVec.ofInt_toInt, ← hop,
      formatB_fields hzero]
  | br off =>
    obtain ⟨hop, hzero, rfl⟩ := h
    rw [encode, BitVec.ofInt_toInt, ← hop, formatB_branch_fields hzero]
  | sleep | reti =>
    obtain ⟨hop, hzero⟩ := h
    rw [encode, ← hop, formatN_fields hzero]

end Sys2Proof

namespace Sys2Proof.Machine

/-! ### The faults of an illegal word and of an operand out of range -/

/-- An illegal word faults with its address and itself (30_encoding.md R90, 41_control_ops.md R110). -/
theorem operationStep_of_illegal {s : State} {e : DecodeError} (h : decode (fetch s) = .error e) :
    operationStep s = .next (withFault (.illegalOp s.pc (fetch s)) s) := by
  rw [operationStep, h, raise_eq]

/-- Check 3 of 40_register_ops.md R100: an immediate that does not fit faults, whatever the kind of
write. -/
theorem writePath_of_not_immediateFits {a : RegAddr} {r : Reg} {k : Half} (f : Half → Half → Half)
    (s : State) (hr : regAt a = some r) (hro : r.readOnly = false)
    (hfit : immediateFits r k = false) :
    writePath a k f s = .next (withFault (.operandRange a k.toNat) s) := by
  simp [writePath, hr, hro, hfit, raise_eq]

/-- An immediate above 0xFF does not fit an 8-bit register (30_encoding.md R86). -/
theorem immediateFits_eq_false {r : Reg} {k : Half} (hw : r.width = 8) (hk : 0xFF < k.toNat) :
    immediateFits r k = false := by
  simp only [immediateFits, hw, Bool.or_eq_false_iff, decide_eq_false_iff_not]
  exact ⟨rfl, by omega⟩

/-- `BBS` with a bit index not below the register's width faults (30_encoding.md R87). -/
theorem execBbs_of_width_le {a : RegAddr} {r : Reg} {bit : Nat} (off : Int) (s : State)
    (hr : regAt a = some r) (hbit : r.width ≤ bit) :
    execBbs a bit off s = .next (withFault (.operandRange a bit) s) := by
  simp [execBbs, hr, hbit, raise_eq]

end Sys2Proof.Machine

namespace Sys2Proof.Proofs

open Sys2Proof.Machine

/-- Settles O1: the word of a well-formed operation holds its fields, and the decoder reads them. -/
theorem decodeOfEncodeIsTheOperation : Obligations.DecodeOfEncodeIsTheOperation :=
  fun _ hwf => decode_eq_ok_iff.mpr (fieldsRead_encode hwf)

/-- Settles O2: the fields the decoder reads, put back with the zeros between them, are the word. -/
theorem encodeOfDecodeIsTheWord : Obligations.EncodeOfDecodeIsTheWord := by
  intro w i h
  have hread := decode_eq_ok_iff.mp h
  exact ⟨hread.wf, hread.encode_eq⟩

/-- Settles O3. A word that decodes is the word of an operation, and that one spells its own row. -/
theorem wordsDecodeByMaskAndMatch : Obligations.WordsDecodeByMaskAndMatch := by
  intro w i
  constructor
  · intro h
    obtain ⟨j, hread, hrow⟩ := exists_fieldsRead_of_and_eq h
    exact ⟨j, decode_eq_ok_iff.mpr hread, hrow⟩
  · rintro ⟨j, hdec, hrow⟩
    rw [← (decode_eq_ok_iff.mp hdec).encode_eq, ← maskOfMatch_rowMatch i, ← hrow, maskOfMatch_rowMatch]
    exact encode_and_rowMask j

/-- Settles O4: the decoder's must-be-zero field of `BR` is the three fields of the statement. -/
theorem illegalWordsAreThoseThatBreakMustBeZero :
    Obligations.IllegalWordsAreThoseThatBreakMustBeZero := by
  intro w
  rw [exists_decode_eq_error_iff, ne_eq (brZeroField w), brZeroField_eq_zero_iff, not_and_or,
    not_and_or]
  rfl

/-- Settles O7: the enabled operation is the step, and the illegal word makes it the fault. -/
theorem illegalWordRaisesIllegalOp : Obligations.IllegalWordRaisesIllegalOp := by
  intro s d e hc hf hl he
  rw [step_of_nextChoice_operation hc hf hl]
  exact operationStep_of_illegal he

/-- Settles O30: check 3 of the write path, alike for the three kinds of write. -/
theorem wideImmediateFaults : Obligations.WideImmediateFaults := by
  intro s a r k hr hro hw hk
  have hfault := fun f =>
    writePath_of_not_immediateFits f s hr hro (immediateFits_eq_false hw hk)
  exact ⟨hfault writeValue, hfault setBits, hfault clearBits⟩

/-- Settles O36: the bit index the decoder reads is a 4-bit field, and the second check of `BBS`. -/
theorem bitIndexOutOfRangeFaults : Obligations.BitIndexOutOfRangeFaults := by
  refine ⟨fun w a bit off h => ?_, fun s a r bit off hr hbit => execBbs_of_width_le off s hr hbit⟩
  obtain ⟨-, -, -, hindex, -⟩ := decode_eq_ok_iff.mp h
  exact ⟨hindex.symm, hindex ▸ Nat.le_of_lt_succ (subField w).isLt⟩

end Sys2Proof.Proofs
end

section
/-! The register operations' own statements (spec/40_register_ops.md): what `WR`, `BIS` and `BIC` write and
leave where the checks of R100 pass. -/

namespace Sys2Proof.Machine

/-! ### What a register write does to the flags and the pins -/

/-- A write to any other register leaves the stored flags of a port (20_memory.md R65). -/
theorem ifg_writeReg_of_ne (s : State) {r : Reg} (v : Half) {p : PortId} (h : r ≠ .portIfg p) :
    ((writeReg s r v).port p).ifg = (s.port p).ifg := by
  have hread : (((writeReg s r v).port p).ifg.setWidth 16 : Half) = (s.port p).ifg.setWidth 16 :=
    readReg_writeReg_ne s v h.symm rfl
  simpa using congrArg (BitVec.setWidth 8) hread

/-- A write to an `IFG` changes no port register but flags. -/
theorem port_writeReg_portIfg (s : State) (p : PortId) (v : Half) (q : PortId) :
    ∃ flags, (writeReg s (.portIfg p) v).port q = { s.port q with ifg := flags } := by
  by_cases h : q = p
  · subst h
    exact ⟨_, port_setPort_same s q _⟩
  · exact ⟨_, port_setPort_ne s _ h⟩

/-- No level depends on a flag (44_port_pin_and_edge_logic.md R158). -/
theorem level_writeReg_portIfg (s : State) (p : PortId) (v : Half) (q : PortId) (b : Pin) :
    level (writeReg s (.portIfg p) v) q b = level s q b := by
  obtain ⟨flags, hport⟩ := port_writeReg_portIfg s p v q
  exact level_congr b (by rw [hport]) (by rw [hport]) (by rw [hport]) (by rw [hport]) (by rw [hport])
    (env_writeReg s _ v q) (writeReg_params s _ v)
    (tout_congr (setPort_tcctl s p _) (setPort_tcnt s p _) (setPort_tcompare s p _))

/-- A software write of the flags latches none: it moves no level (40_register_ops.md R100, step 9). -/
theorem latchedFlags_writeReg_portIfg (s : State) (p : PortId) (v : Half) (q : PortId) :
    latchedFlags s (writeReg s (.portIfg p) v) q = 0 :=
  latchedFlags_eq_zero fun b => latches_eq_false_of_level_eq (level_writeReg_portIfg s p v q b)

/-- The flags after a completed write to the port's own `IFG` are the ones written
(44_port_pin_and_edge_logic.md R165). -/
theorem ifg_commitWrite_portIfg (s : State) (p : PortId) (v : Half) :
    ((commitWrite (.portIfg p) v s).port p).ifg = v.setWidth 8 := by
  rw [port_commitWrite, latchedFlags_writeReg_portIfg, if_neg (by simp)]
  simp [writeReg]

/-- The bits that the Edge-Select side effect of a write of `new` over `ies` draws from
(44_port_pin_and_edge_logic.md R167). -/
theorem getLsbD_edgeSelectDraw (ies draw : Byte) (new : Half) (b : Pin) :
    ((((ies.setWidth 16 : Half).setWidth 8 ^^^ new.setWidth 8) &&& draw).getLsbD b = true ↔
      ies.getLsbD b ≠ new.getLsbD b ∧ draw.getLsbD b = true) := by
  simp

/-- Writing back the value an Edge-Select register holds changes no bit of it, so step 10 draws no flag. -/
theorem iesSideEffect_self (r : Reg) (v : Half) (s : State) : iesSideEffect r v v s = s := by
  cases r with
  | portIes p =>
    simp only [iesSideEffect, BitVec.xor_self, BitVec.zero_and]
    exact ite_eq_right_iff.mpr fun _ => setFlags_zero s p
  | _ => rfl

/-- A completed write of the value the register holds moves `pc` alone (40_register_ops.md R101). -/
theorem commitWrite_readReg (r : Reg) (s : State) : commitWrite r (readReg s r) s = advancePc s := by
  rw [commitWrite, writeReg_readReg, edgeEval_self, iesSideEffect_self]

/-! ### The immediate check as the spec words it, and a mask of 0 -/

/-- Check 3 of 40_register_ops.md R100: only an 8-bit register limits the immediate. -/
theorem immediateFits_iff {r : Reg} {k : Half} :
    immediateFits r k = true ↔ (r.width = 8 → k.toNat ≤ 0xFF) := by
  rw [immediateFits, width_eq]
  split <;> simp [Nat.lt_succ_iff]

theorem setBits_zero (old : Half) : setBits old 0 = old :=
  BitVec.or_zero

theorem clearBits_zero (old : Half) : clearBits old 0 = old :=
  BitVec.and_allOnes

end Sys2Proof.Machine

namespace Sys2Proof.Safety

open Sys2Proof.Machine

/-! ### A completed write, whatever computed the value -/

/-- A completed write of a value that fits leaves it in the register. An `IFG` reads exactly what was
written because the write itself latches nothing. -/
theorem readReg_commitWrite_same (s : State) {r : Reg} {new : Half} (hro : r.readOnly = false)
    (hfit : immediateFits r new = true) : readReg (commitWrite r new s) r = new := by
  by_cases hifg : ∃ p, r = .portIfg p
  · obtain ⟨p, rfl⟩ := hifg
    rw [readReg, ifg_commitWrite_portIfg]
    exact setWidth_setWidth_of_lt (by simpa [immediateFits, Reg.width] using hfit)
  · rw [readReg_commitWrite r new s hro (not_exists.mp hifg), readReg_writeReg_same s hro hfit]

/-- A flag of a register not written, after a completed write: it was 1, or the write latched it, or the
Edge-Select draw set it (40_register_ops.md R100, steps 9 and 10). -/
theorem getLsbD_ifg_commitWrite (s : State) {r : Reg} (new : Half) {p : PortId} (b : Pin)
    (h : r ≠ .portIfg p) :
    (((commitWrite r new s).port p).ifg.getLsbD b = true ↔
      (s.port p).ifg.getLsbD b = true ∨ latches s (writeReg s r new) p b = true ∨
        EdgeSelectDraw s r new p b) := by
  rw [port_commitWrite]
  simp only [ifg_writeReg_of_ne s new h, BitVec.getLsbD_or, Bool.or_eq_true, getLsbD_latchedFlags,
    or_assoc]
  refine or_congr_right (or_congr_right ?_)
  by_cases hdraw : r = .portIes p ∧ s.params.iesWriteMaySetFlag = true
  · obtain ⟨rfl, hmay⟩ := hdraw
    rw [if_pos ⟨rfl, hmay⟩, readReg, getLsbD_edgeSelectDraw]
    simp [EdgeSelectDraw, hmay]
  · rw [if_neg hdraw]
    simp only [BitVec.ofNat_eq_ofNat, BitVec.getLsbD_zero, Bool.false_eq_true, false_iff]
    exact fun ⟨hmay, hr, _⟩ => hdraw ⟨hr, hmay⟩

/-- Steps 7 to 11 of 40_register_ops.md R100 are a register write as `RegisterWritten` describes it. -/
theorem registerWritten_commitWrite (s : State) {r : Reg} {new : Half} (hro : r.readOnly = false)
    (hfit : immediateFits r new = true) : RegisterWritten s r new (commitWrite r new s) where
  value := readReg_commitWrite_same s hro hfit
  pc := commitWrite_pc r new s
  others r' hne hro' hifg := by
    rw [readReg_commitWrite r new s hro' hifg, readReg_writeReg_ne s new hne hro']
  flags _ b hne := getLsbD_ifg_commitWrite s new b hne
  status := ⟨commitWrite_gie r new s, commitWrite_lpm r new s, commitWrite_inh r new s,
    commitWrite_saved r new s, commitWrite_fault r new s, commitWrite_wdtGrace r new s⟩
  outside := ⟨commitWrite_env0 r new s, commitWrite_env1 r new s, commitWrite_rom r new s,
    commitWrite_params r new s, commitWrite_iesDraw r new s, commitWrite_agenda r new s,
    commitWrite_ticket r new s⟩

/-- Where the checks of 40_register_ops.md R100 pass, the write path writes the value its function
computes; that this value fits the register is a fact about the function. -/
theorem writePath_registerWritten {s : State} {a : RegAddr} {r : Reg} {k : Half}
    {f : Half → Half → Half} (hr : regAt a = some r) (hro : r.readOnly = false)
    (hfit : immediateFits r k = true) (hnew : immediateFits r (f (readReg s r) k) = true)
    (hleg : legalValue r (f (readReg s r) k) = true) (hpc : s.pc ≠ 0x3F) :
    ∃ t, writePath a k f s = .next t ∧ RegisterWritten s r (f (readReg s r) k) t :=
  ⟨_, writePath_of_checks hr hro hfit hleg hpc, registerWritten_commitWrite s hro hnew⟩

/-- The write path moves `pc` alone where its function gives back the value the register holds. -/
theorem writePath_of_unchanged {s : State} {a : RegAddr} {r : Reg} {k : Half}
    {f : Half → Half → Half} (hr : regAt a = some r) (hro : r.readOnly = false)
    (hfit : immediateFits r k = true) (hsame : f (readReg s r) k = readReg s r)
    (hleg : legalValue r (readReg s r) = true) (hpc : s.pc ≠ 0x3F) :
    writePath a k f s = .next { s with pc := s.pc + 1 } := by
  rw [writePath_of_checks hr hro hfit (hsame.symm ▸ hleg) hpc, hsame, commitWrite_readReg]
  rfl

end Sys2Proof.Safety

namespace Sys2Proof.Proofs

open Sys2Proof.Machine Sys2Proof.Safety

/-- Settles O24: `WR` stores the immediate itself, which the check has shown to fit. -/
theorem wrWritesTheWholeRegister : Obligations.WrWritesTheWholeRegister := by
  intro s a r k hr hro hk hleg hpc
  have hfit := immediateFits_iff.mpr hk
  exact writePath_registerWritten (f := writeValue) hr hro hfit hfit hleg hpc

/-- Settles O25: two values that fit a register are within it when their bits are joined. -/
theorem bisSetsTheBitsOfTheMask : Obligations.BisSetsTheBitsOfTheMask := by
  intro s a r k hr hro hk hleg hpc
  have hfit := immediateFits_iff.mpr hk
  exact writePath_registerWritten (f := setBits) hr hro hfit
    (immediateFits_setBits (immediateFits_readReg s r) hfit) hleg hpc

/-- Settles O26: a value that fits a register is within it when bits are cleared. -/
theorem bicClearsTheBitsOfTheMask : Obligations.BicClearsTheBitsOfTheMask := by
  intro s a r k hr hro hk hleg hpc
  exact writePath_registerWritten (f := clearBits) hr hro (immediateFits_iff.mpr hk)
    (immediateFits_clearBits k (immediateFits_readReg s r)) hleg hpc

/-- Settles O27: in all three writes the new value is the old one. -/
theorem rewritingAValueChangesOnlyPc : Obligations.RewritingAValueChangesOnlyPc := by
  intro s a r hr hro hleg hpc
  have hzero : immediateFits r 0 = true := immediateFits_iff.mpr fun _ => Nat.zero_le _
  exact ⟨writePath_of_unchanged (f := writeValue) hr hro (immediateFits_readReg s r) rfl hleg hpc,
    writePath_of_unchanged (f := setBits) hr hro hzero (setBits_zero _) hleg hpc,
    writePath_of_unchanged (f := clearBits) hr hro hzero (clearBits_zero _) hleg hpc⟩

end Sys2Proof.Proofs
end

section
/-! The control operations' own statements (spec/41_control_ops.md): what `BBS`, `BR`, `SLEEP` and `RETI` do,
the ways `pc` changes, and the invariant that every step keeps. -/

namespace Sys2Proof.Machine

/-! ### Where a branch leads -/

theorem inProgramStore_iff {x : Int} : inProgramStore x = true ↔ 0 ≤ x ∧ x ≤ 0x3F := by
  simp [inProgramStore]

/-- A jump to a target inside the program store moves `pc` to it and changes nothing else
(41_control_ops.md R111, R112). -/
theorem jumpTo_of_inside {x : Int} (s : State) (hlo : 0 ≤ x) (hhi : x ≤ 0x3F) :
    ∃ u : State, jumpTo x s = .next u ∧ (u.pc.toNat : Int) = x ∧ u = { s with pc := u.pc } := by
  have hx : inProgramStore x = true := inProgramStore_iff.mpr ⟨hlo, hhi⟩
  exact ⟨withPc (BitVec.ofInt 6 x) s, by rw [jumpTo, if_pos hx], toNat_ofInt_of_inProgramStore hx, rfl⟩

/-- A jump to a target outside the program store faults with it (30_encoding.md R88). -/
theorem jumpTo_of_outside {x : Int} (s : State) (hx : x < 0 ∨ 0x3F < x) :
    jumpTo x s = .next (withFault (.pcRange x) s) := by
  have hout : ¬inProgramStore x = true := fun h => by
    obtain ⟨hlo, hhi⟩ := inProgramStore_iff.mp h
    omega
  rw [jumpTo, if_neg hout, raise_eq]

/-- `BBS` on a bit that its register has is a jump, to its target where the bit is 1 and to the next
address where it is 0 (41_control_ops.md R111). -/
theorem execBbs_of_lt_width {a : RegAddr} {r : Reg} {bit : Nat} (off : Int) (s : State)
    (hr : regAt a = some r) (hbit : bit < r.width) :
    execBbs a bit off s =
      jumpTo (branchTarget s (if (readReg s r).getLsbD bit then off else 0)) s := by
  have hwidth : ¬r.width ≤ bit := Nat.not_le_of_lt hbit
  simp only [execBbs, hr, if_neg hwidth]
  split <;> rfl

/-! ### `SLEEP` and `RETI` where their checks pass, and the last address -/

theorem atLastAddress_iff {s : State} : atLastAddress s = true ↔ s.pc = 0x3F :=
  beq_iff_eq

/-- `SLEEP` outside the handler and before the last address (41_control_ops.md R113). -/
theorem execSleep_of_checks {s : State} (hinh : s.inh = false) (hpc : s.pc ≠ 0x3F) :
    execSleep s = .next (advancePc { s with gie := true, lpm := .wait }) := by
  have hlast : ¬atLastAddress s = true := fun h => hpc (atLastAddress_iff.mp h)
  simp [execSleep, hinh, hlast]

/-- `SLEEP` has no next address at the last one (41_control_ops.md R110, R113). -/
theorem execSleep_of_lastAddress {s : State} (hinh : s.inh = false) (hpc : s.pc = 0x3F) :
    execSleep s = .next (withFault (.pcRange 0x40) s) := by
  simp [execSleep, hinh, atLastAddress_iff.mpr hpc, raise_eq]

/-- `RETI` in the handler makes no check of `pc`: it does not advance it (41_control_ops.md R114). -/
theorem execReti_of_inh {s : State} (hinh : s.inh = true) :
    execReti s = .next (returnFromHandler s) := by
  simp [execReti, hinh]

/-- Check 6 of 40_register_ops.md R100: a write that passes the checks before it faults at the last
address, whatever the kind of write. -/
theorem writePath_of_lastAddress {a : RegAddr} {r : Reg} {k : Half} {f : Half → Half → Half}
    {s : State} (hr : regAt a = some r) (hro : r.readOnly = false) (hfit : immediateFits r k = true)
    (hpc : s.pc = 0x3F) (hleg : legalValue r (f (readReg s r) k) = true) :
    writePath a k f s = .next (withFault (.pcRange 0x40) s) := by
  simp [writePath, hr, hro, hfit, hleg, atLastAddress_iff.mpr hpc, raise_eq]

/-! ### The ways an operation moves `pc` -/

/-- Storing the draw and using the choice up changes no register's reading. -/
@[simp] theorem readReg_withIesDraw_dropChoice (d : Byte) (s : State) (r : Reg) :
    readReg (withIesDraw d (dropChoice s)) r = readReg s r := by
  have hlevel := level_eq_of_pins_eq (s := s) (t := withIesDraw d (dropChoice s)) (by simp) (by simp)
    rfl rfl rfl rfl
  cases r with
  | portIn p => simp only [readReg, inputByte, funext (hlevel p)]
  | _ => simp [readReg]

/-- Before the last address, advancing `pc` does not wrap. -/
theorem toNat_pc_succ {pc : ProgAddr} (h : pc ≠ 0x3F) : (pc + 1).toNat = pc.toNat + 1 := by
  bv_omega

/-- Operation `i` moves `pc` from its value in `s` to `dest`: it advances, a branch is taken, or the handler
returns (41_control_ops.md R115, but for acceptance and reset, which are no operations). -/
def MovesPc (i : Instr) (s : State) (dest : ProgAddr) : Prop :=
  (dest.toNat = s.pc.toNat + 1 ∧ ((∃ a k, i = .wr a k ∨ i = .bis a k ∨ i = .bic a k) ∨
      i = .sleep ∨ ∃ a r b off, i = .bbs a b off ∧ regAt a = some r ∧
        (readReg s r).getLsbD b = false)) ∨
    (∃ off, (dest.toNat : Int) = s.pc.toNat + 1 + off ∧ (i = .br off ∨
      ∃ a r b, i = .bbs a b off ∧ regAt a = some r ∧ (readReg s r).getLsbD b = true)) ∨
    (i = .reti ∧ dest = s.saved.pc)

theorem movesPc_withIesDraw_dropChoice {i : Instr} {d : Byte} {s : State} {dest : ProgAddr} :
    MovesPc i (withIesDraw d (dropChoice s)) dest ↔ MovesPc i s dest := by
  simp only [MovesPc, readReg_withIesDraw_dropChoice, withIesDraw_pc, dropChoice_pc,
    withIesDraw_saved, dropChoice_saved]

/-- An operation that changes `pc` does it in one of the ways of `MovesPc`. -/
theorem exec_movesPc {i : Instr} {s t : State} (h : exec i s = .next t) (hne : t.pc ≠ s.pc) :
    MovesPc i s t.pc := by
  rcases exec_cases h with ⟨e, rfl⟩ | ⟨r, new, -, -, -, hpc, rfl, a, k, -, hi⟩ |
    ⟨x, hx, rfl, ⟨off, rfl, rfl⟩ | ⟨a, b, off, r, rfl, hr, -, ⟨hbit, rfl⟩ | ⟨hbit, rfl⟩⟩⟩ |
    ⟨rfl, -, hpc, rfl⟩ | ⟨rfl, -, rfl⟩
  · exact absurd (withFault_pc e s) hne
  · rw [commitWrite_pc]
    refine .inl ⟨toNat_pc_succ hpc, .inl ⟨a, k, ?_⟩⟩
    exact hi.imp And.left (Or.imp And.left And.left)
  · exact .inr (.inl ⟨off, toNat_ofInt_of_inProgramStore hx, .inl rfl⟩)
  · exact .inr (.inl ⟨off, toNat_ofInt_of_inProgramStore hx, .inr ⟨a, r, b, rfl, hr, hbit⟩⟩)
  · have hnext : ((BitVec.ofInt 6 (branchTarget s 0)).toNat : Int) = s.pc.toNat + 1 + 0 :=
      toNat_ofInt_of_inProgramStore hx
    have hsucc : (BitVec.ofInt 6 (branchTarget s 0)).toNat = s.pc.toNat + 1 := by omega
    exact .inl ⟨hsucc, .inr (.inr ⟨a, r, b, off, rfl, hr, hbit⟩)⟩
  · exact .inl ⟨toNat_pc_succ hpc, .inr (.inl rfl)⟩
  · exact .inr (.inr ⟨rfl, rfl⟩)

/-- A sequencer step that changes `pc` has executed an operation that moves it: the fault of an illegal
word leaves it. -/
theorem operationStep_movesPc {s t : State} (h : operationStep s = .next t) (hne : t.pc ≠ s.pc) :
    ∃ i, decode (fetch s) = .ok i ∧ MovesPc i s t.pc := by
  rcases operationStep_cases h with ⟨-, rfl⟩ | ⟨i, u, hi, hu, rfl⟩
  · exact absurd (withFault_pc _ s) hne
  · rw [completeOperation_pc] at hne ⊢
    exact ⟨i, hi, exec_movesPc hu hne⟩

/-- Acceptance that changes `pc` has taken the port's vector (60_exceptions.md R178, R179). -/
theorem vec_eq_of_acceptInterrupt_pc_ne {p : PortId} {s : State}
    (hne : (acceptInterrupt p s).pc ≠ s.pc) : s.params.vec p = some (acceptInterrupt p s).pc := by
  rcases acceptInterrupt_cases p s with ⟨-, h⟩ | ⟨v, hv, h⟩
  · exact absurd (by rw [h, withFault_pc]) hne
  · rw [h, hv]

end Sys2Proof.Machine

namespace Sys2Proof.Safety

open Sys2Proof.Machine

/-! ### The mode invariant is kept -/

theorem modeInv_congr {s t : State} (hgie : t.gie = s.gie) (hlpm : t.lpm = s.lpm)
    (hinh : t.inh = s.inh) (hsaved : t.saved = s.saved) (hs : ModeInv s) : ModeInv t := by
  rw [ModeInv, hgie, hlpm, hinh, hsaved]
  exact hs

/-- `SLEEP` raises `GIE` and `LPM` together, outside the handler; `RETI` restores what `SAVED` holds, which
is the wait. No other operation touches the modes (41_control_ops.md R113, R114). -/
theorem modeInv_exec {i : Instr} {s t : State} (hs : ModeInv s) (h : exec i s = .next t) :
    ModeInv t := by
  rcases exec_cases h with ⟨e, rfl⟩ | ⟨r, new, -, -, -, -, rfl, -⟩ | ⟨x, -, rfl, -⟩ |
    ⟨-, hinh, -, rfl⟩ | ⟨-, hinh, rfl⟩
  · exact modeInv_congr rfl rfl rfl rfl hs
  · exact modeInv_congr (commitWrite_gie r new s) (commitWrite_lpm r new s) (commitWrite_inh r new s)
      (commitWrite_saved r new s) hs
  · exact modeInv_congr rfl rfl rfl rfl hs
  · simp [ModeInv, hinh]
  · obtain ⟨-, hgie, hlpm⟩ := hs.2 hinh
    simp [ModeInv, hgie, hlpm]

theorem modeInv_operationStep {s t : State} (hs : ModeInv s) (h : operationStep s = .next t) :
    ModeInv t := by
  rcases operationStep_cases h with ⟨-, rfl⟩ | ⟨i, u, -, hu, rfl⟩
  · exact modeInv_congr rfl rfl rfl rfl hs
  · exact modeInv_congr (completeOperation_gie u) (completeOperation_lpm u) (completeOperation_inh u)
      (completeOperation_saved u) (modeInv_exec hs hu)

/-- Acceptance happens with `GIE` = 1, so what it saves is the wait with interrupts enabled
(60_exceptions.md R177, R178). -/
theorem modeInv_acceptInterrupt {s : State} (p : PortId) (hs : ModeInv s) (hgie : s.gie = true) :
    ModeInv (acceptInterrupt p s) := by
  rcases acceptInterrupt_cases p s with ⟨-, h⟩ | ⟨v, -, h⟩
  · rw [h]
    exact modeInv_congr rfl rfl rfl rfl hs
  · simp [ModeInv, h, hgie, hs.1.mp hgie]

theorem modeInv_resetStep (d : ResetDraws) (s : State) : ModeInv (resetStep d s) := by
  simp [ModeInv]

theorem modeInv_step {s t : State} (hs : ModeInv s) (h : step s = .next t) : ModeInv t := by
  have hdrop : ModeInv (dropChoice s) := modeInv_congr rfl rfl rfl rfl hs
  rcases step_kinds h with rfl | ⟨d, -, -, -, hop⟩ | ⟨p, -, -, hgie, -, rfl⟩ | ⟨-, -, rfl⟩ |
    ⟨cs, -, rfl⟩ | ⟨d, -, rfl⟩
  · exact hdrop
  · have hdraw : ModeInv (withIesDraw d (dropChoice s)) := modeInv_congr rfl rfl rfl rfl hdrop
    exact modeInv_operationStep hdraw hop
  · exact modeInv_acceptInterrupt p hdrop hgie
  · exact modeInv_congr rfl rfl rfl rfl hdrop
  · exact modeInv_congr (environmentStep_gie cs _) (environmentStep_lpm cs _)
      (environmentStep_inh cs _) (environmentStep_saved cs _) hdrop
  · exact modeInv_resetStep d _

/-! ### The legal register values are kept -/

theorem legalInv_congr {s t : State} (htctl : t.tctl = s.tctl) (htcctl : t.tcctl = s.tcctl)
    (hwdt : t.wdt = s.wdt) (hs : LegalInv s) : LegalInv t := by
  rw [LegalInv, htctl, htcctl, hwdt]
  exact hs

/-- A write of a legal value keeps the legal values: of the register written and of the other two
(10_state.md R34, R35, R37). -/
theorem legalInv_writeReg {s : State} {r : Reg} {new : Half} (hs : LegalInv s)
    (hnew : legalValue r new = true) : LegalInv (writeReg s r new) := by
  have ⟨htctl, htcctl, hwdt⟩ := hs
  cases r with
  | tctl => exact ⟨hnew, htcctl, hwdt⟩
  | tcctl => exact ⟨htctl, hnew, hwdt⟩
  | wdt => exact ⟨htctl, htcctl, hnew⟩
  | portOut p | portDir p | portRen p | portIes p | portSel p | portSel2 p | portIe p | portIfg p =>
    exact legalInv_congr (setPort_tctl s p _) (setPort_tcctl s p _) (setPort_wdt s p _) hs
  | portIn | tcnt | tperiod | tcompare | clkrange | clkdco => exact hs

/-- An operation writes only what check 5 of 40_register_ops.md R100 has found legal. -/
theorem legalInv_exec {i : Instr} {s t : State} (hs : LegalInv s) (h : exec i s = .next t) :
    LegalInv t := by
  rcases exec_cases h with ⟨e, rfl⟩ | ⟨r, new, -, -, hleg, -, rfl, -⟩ | ⟨x, -, rfl, -⟩ |
    ⟨-, -, -, rfl⟩ | ⟨-, -, rfl⟩
  · exact legalInv_congr rfl rfl rfl hs
  · exact legalInv_congr (commitWrite_tctl r new s) (commitWrite_tcctl r new s)
      (commitWrite_wdt r new s) (legalInv_writeReg hs hleg)
  · exact legalInv_congr rfl rfl rfl hs
  · exact legalInv_congr rfl rfl rfl hs
  · exact legalInv_congr rfl rfl rfl hs

theorem legalInv_operationStep {s t : State} (hs : LegalInv s) (h : operationStep s = .next t) :
    LegalInv t := by
  rcases operationStep_cases h with ⟨-, rfl⟩ | ⟨i, u, -, hu, rfl⟩
  · exact legalInv_congr rfl rfl rfl hs
  · exact legalInv_congr (completeOperation_tctl u) (completeOperation_tcctl u)
      (completeOperation_wdt u) (legalInv_exec hs hu)

theorem legalInv_resetStep (d : ResetDraws) (s : State) : LegalInv (resetStep d s) := by
  simp [LegalInv, legalValue]

theorem legalInv_step {s t : State} (hs : LegalInv s) (h : step s = .next t) : LegalInv t := by
  have hdrop : LegalInv (dropChoice s) := legalInv_congr rfl rfl rfl hs
  rcases step_kinds h with rfl | ⟨d, -, -, -, hop⟩ | ⟨p, -, -, -, -, rfl⟩ | ⟨-, -, rfl⟩ |
    ⟨cs, -, rfl⟩ | ⟨d, -, rfl⟩
  · exact hdrop
  · have hdraw : LegalInv (withIesDraw d (dropChoice s)) := legalInv_congr rfl rfl rfl hdrop
    exact legalInv_operationStep hdraw hop
  · exact legalInv_congr (acceptInterrupt_tctl p _) (acceptInterrupt_tcctl p _)
      (acceptInterrupt_wdt p _) hdrop
  · exact legalInv_congr rfl rfl rfl hdrop
  · exact legalInv_congr (environmentStep_tctl cs _) (environmentStep_tcctl cs _)
      (environmentStep_wdt cs _) hdrop
  · exact legalInv_resetStep d _

end Sys2Proof.Safety

namespace Sys2Proof.Proofs

open Sys2Proof.Machine Sys2Proof.Safety

/-- Settles O14: the two invariants of the block's own state step by step; the program store and the
parameters stand still. -/
theorem everyStepKeepsTheInvariant : Obligations.EveryStepKeepsTheInvariant := by
  rintro s t ⟨hmode, hlegal, hrom, hparams⟩ h
  have hsame := step_sameParameters h
  exact ⟨modeInv_step hmode h, legalInv_step hlegal h, hsame.rom ▸ hrom, hsame.params ▸ hparams⟩

/-- Settles O20: three of the five ways are the operations', the others acceptance and reset. -/
theorem pcChangesInExactlyFiveWays : Obligations.PcChangesInExactlyFiveWays := by
  intro s t h hne
  rcases step_kinds h with rfl | ⟨d, hc, -, -, hop⟩ | ⟨p, hc, -, -, -, rfl⟩ | ⟨-, -, rfl⟩ |
    ⟨cs, -, rfl⟩ | ⟨d, hc, rfl⟩
  · exact absurd (dropChoice_pc s) hne
  · obtain ⟨i, hi, hmoves⟩ := operationStep_movesPc hop hne
    exact .inl ⟨d, i, hc, hi, movesPc_withIesDraw_dropChoice.mp hmoves⟩
  · exact .inr (.inl ⟨p, hc, vec_eq_of_acceptInterrupt_pc_ne hne⟩)
  · exact absurd (timerTick_pc _) hne
  · exact absurd (environmentStep_pc cs _) hne
  · exact .inr (.inr ⟨resetStep_pc d _, d, hc⟩)

/-- Settles O34: past its first two checks `BBS` is a jump. -/
theorem bbsBranchesOnTheRegisterBit : Obligations.BbsBranchesOnTheRegisterBit := by
  rintro s a r bit off target hr hbit rfl hlo hhi
  obtain ⟨u, hu, hpc, hframe⟩ := jumpTo_of_inside s hlo hhi
  exact ⟨u, (execBbs_of_lt_width off s hr hbit).trans hu, hpc, hframe⟩

/-- Settles O16: an enabled operation runs in the active mode, in which the mode invariant has `GIE` at
0. -/
theorem operationAndAcceptanceAreNeverBothEnabled :
    Obligations.OperationAndAcceptanceAreNeverBothEnabled := by
  rintro s d p ⟨hmode, -⟩ hop
  have hactive : s.lpm = .active := by
    simp only [enabled, operationEnabled, Bool.and_eq_true, beq_iff_eq] at hop
    exact hop.2
  have hgie : s.gie = false := by
    rw [← Bool.not_eq_true, hmode, hactive]
    decide
  simp [enabled, acceptanceEnabled, hgie]

/-- Settles O35: `BR` is a jump. -/
theorem brBranchesAlways : Obligations.BrBranchesAlways :=
  fun s _ hlo hhi => jumpTo_of_inside s hlo hhi

/-- Settles O37: the branches are jumps to a target outside; the others have no next address. -/
theorem leavingTheProgramStoreFaults : Obligations.LeavingTheProgramStoreFaults := by
  intro s
  refine ⟨?br, ?bbs, fun hpc hinh => execSleep_of_lastAddress hinh hpc, ?writes⟩
  case br =>
    rintro off target rfl hout
    exact jumpTo_of_outside s hout
  case bbs =>
    rintro a r bit off target hr hbit rfl hout
    exact (execBbs_of_lt_width off s hr hbit).trans (jumpTo_of_outside s hout)
  case writes =>
    intro a r k hpc hr hro hk
    have hfit := immediateFits_iff.mpr hk
    exact ⟨writePath_of_lastAddress (f := writeValue) hr hro hfit hpc,
      writePath_of_lastAddress (f := setBits) hr hro hfit hpc,
      writePath_of_lastAddress (f := clearBits) hr hro hfit hpc⟩

/-- Settles O38. -/
theorem sleepEnablesInterruptsAndWaits : Obligations.SleepEnablesInterruptsAndWaits :=
  fun _ hinh hpc => execSleep_of_checks hinh hpc

/-- Settles O39. -/
theorem retiRestoresTheSavedContext : Obligations.RetiRestoresTheSavedContext :=
  fun _ hinh => execReti_of_inh hinh

end Sys2Proof.Proofs
end

section
/-! The timer's own statements (spec/43_timer_unit.md): what a tick does to the counter, the compare output at
every counter value, and the waveform of a run of ticks. -/

namespace Sys2Proof.Machine

/-! ### The step of a tick -/

/-- A tick is enabled by `TCTL` alone (43_timer_unit.md R141). -/
theorem takeChoice_tick {s : State} (h : s.tctl = 0x0210) : takeChoice .tick s = .next (timerTick s) :=
  if_pos (beq_iff_eq.mpr h)

/-! ### The counter after one tick -/

/-- Below the period nothing wraps at 16 bits, so counting up may be read in the integers
(43_timer_unit.md R142). -/
theorem nextCount_eq (s : State) : nextCount s =
    if s.tcnt.toNat + 1 < s.tperiod.toNat then BitVec.ofNat 16 (s.tcnt.toNat + 1) else 0 := by
  have hsucc : s.tcnt + 1 = BitVec.ofNat 16 (s.tcnt.toNat + 1) := by
    rw [BitVec.ofNat_add, BitVec.ofNat_toNat, BitVec.setWidth_eq]
    rfl
  rw [nextCount, hsucc]

theorem toNat_nextCount (s : State) : (nextCount s).toNat =
    if s.tcnt.toNat + 1 < s.tperiod.toNat then s.tcnt.toNat + 1 else 0 := by
  have hperiod := s.tperiod.isLt
  rw [nextCount_eq]
  split
  · rw [BitVec.toNat_ofNat]
    omega
  · rfl

/-- The counter wraps at the last value of the period and above it (43_timer_unit.md R142, R143). -/
theorem nextCount_of_le {s : State} (h : s.tperiod.toNat ≤ s.tcnt.toNat + 1) : nextCount s = 0 :=
  if_neg (Nat.not_lt_of_le h)

theorem rolloverNext_iff {s : State} :
    rolloverNext s = true ↔ s.tperiod.toNat ≤ s.tcnt.toNat + 1 := by
  simp [rolloverNext]

/-- Inside the period the counter counts modulo the period (43_timer_unit.md R142). -/
theorem toNat_nextCount_of_lt {s : State} (h : s.tcnt.toNat < s.tperiod.toNat) :
    (nextCount s).toNat = (s.tcnt.toNat + 1) % s.tperiod.toNat := by
  rw [toNat_nextCount]
  split
  case isTrue hlt => exact (Nat.mod_eq_of_lt hlt).symm
  case isFalse hlast =>
    have hwrap : s.tcnt.toNat + 1 = s.tperiod.toNat := by omega
    rw [hwrap, Nat.mod_self]

/-- Wherever it starts, a tick leads into the period (43_timer_unit.md R142, R149 (d)). -/
theorem toNat_nextCount_lt {s : State} (h : 1 ≤ s.tperiod.toNat) :
    (nextCount s).toNat < s.tperiod.toNat := by
  rw [toNat_nextCount]
  split <;> omega

/-! ### The compare output by its mode -/

/-- The first line of 43_timer_unit.md R146. -/
theorem tout_of_off {s : State} (h : s.tcctl.extractLsb 7 5 = 0) : tout s = false := by
  have hmode : s.tcctl.extractLsb' 5 3 = 0 := h
  simp [tout, outputMode, hmode]

/-- The second line of 43_timer_unit.md R146. -/
theorem tout_iff_of_setReset {s : State} (h : s.tcctl.extractLsb 7 5 = 3) :
    tout s = true ↔ s.tcompare.toNat ≤ s.tcnt.toNat := by
  have hmode : s.tcctl.extractLsb' 5 3 = 3 := h
  simp [tout, outputMode, hmode]

/-- The third line of 43_timer_unit.md R146. -/
theorem tout_iff_of_resetSet {s : State} (h : s.tcctl.extractLsb 7 5 = 7) :
    tout s = true ↔ s.tcnt.toNat < s.tcompare.toNat := by
  have hmode : s.tcctl.extractLsb' 5 3 = 7 := h
  simp [tout, outputMode, hmode]

/-! The values of `TCCTL` that a write can store (10_state.md R35) and the modes they select. -/

theorem outmod_of_0000 {m : Half} (h : m = 0x0000) : m.extractLsb 7 5 = 0 := by
  rw [h]
  decide

theorem outmod_of_0060 {m : Half} (h : m = 0x0060) : m.extractLsb 7 5 = 3 := by
  rw [h]
  decide

theorem outmod_of_00E0 {m : Half} (h : m = 0x00E0) : m.extractLsb 7 5 = 7 := by
  rw [h]
  decide

end Sys2Proof.Machine

namespace Sys2Proof.Safety

open Sys2Proof.Machine

/-! ### Runs of ticks -/

/-- Ticks move the counter and nothing else. -/
theorem ticks_eq (n : Nat) (s : State) : ticks n s = { s with tcnt := (ticks n s).tcnt } := by
  induction n with
  | zero => rfl
  | succ n ih =>
    rw [ticks, timerTick_eq, ih]

@[simp] theorem ticks_tctl (n : Nat) (s : State) : (ticks n s).tctl = s.tctl := by
  rw [ticks_eq]

@[simp] theorem ticks_tcctl (n : Nat) (s : State) : (ticks n s).tcctl = s.tcctl := by
  rw [ticks_eq]

@[simp] theorem ticks_tperiod (n : Nat) (s : State) : (ticks n s).tperiod = s.tperiod := by
  rw [ticks_eq]

@[simp] theorem ticks_tcompare (n : Nat) (s : State) : (ticks n s).tcompare = s.tcompare := by
  rw [ticks_eq]

/-- The first choices of a list lead to where the others begin. -/
theorem takeAll_append {cs : List Choice} {s t : State} (ds : List Choice)
    (h : takeAll cs s = .next t) : takeAll (cs ++ ds) s = takeAll ds t := by
  induction cs generalizing s with
  | nil => rw [Host.Outcome.next.inj h, List.nil_append]
  | cons c cs ih =>
    rw [List.cons_append, takeAll]
    rw [takeAll] at h
    cases hc : takeChoice c (useTicket s) with
    | next u =>
      rw [hc] at h
      exact ih h
    | fault | refused =>
      rw [hc] at h
      cases h

/-- Tick after tick chosen is the run of ticks, but for the tickets used (43_timer_unit.md R141). -/
theorem takeAll_replicate_tick {s : State} (h : s.tctl = 0x0210) (n : Nat) :
    takeAll (List.replicate n .tick) s = .next { ticks n s with ticket := s.ticket + n } := by
  induction n with
  | zero => rfl
  | succ n ih =>
    have htctl : (useTicket { ticks n s with ticket := s.ticket + n }).tctl = 0x0210 :=
      (ticks_tctl n s).trans h
    rw [List.replicate_succ', takeAll_append _ ih, takeAll, takeChoice_tick htctl, timerTick_eq, ticks,
      timerTick_eq]
    rfl

/-- From inside the period the counter runs modulo the period (43_timer_unit.md R142, R147). -/
theorem toNat_tcnt_ticks {s : State} (h : s.tcnt.toNat < s.tperiod.toNat) (n : Nat) :
    (ticks n s).tcnt.toNat = (s.tcnt.toNat + n) % s.tperiod.toNat := by
  induction n with
  | zero => exact (Nat.mod_eq_of_lt h).symm
  | succ n ih =>
    have hin : (ticks n s).tcnt.toNat < (ticks n s).tperiod.toNat := by
      rw [ih, ticks_tperiod]
      exact Nat.mod_lt _ (Nat.zero_lt_of_lt h)
    rw [ticks, timerTick_tcnt, toNat_nextCount_of_lt hin, ih, ticks_tperiod, Nat.mod_add_mod,
      Nat.add_assoc]

/-- The first of a run of ticks may be taken off. -/
theorem ticks_succ_eq (n : Nat) (s : State) : ticks (n + 1) s = ticks n (timerTick s) := by
  induction n with
  | zero => rfl
  | succ n ih => exact congrArg timerTick ih

/-- The first tick at the end of a period or above it begins a period (43_timer_unit.md R143, R147). -/
theorem toNat_tcnt_ticks_succ {s : State} (hP : 1 ≤ s.tperiod.toNat)
    (h : s.tperiod.toNat ≤ s.tcnt.toNat + 1) (n : Nat) :
    (ticks (n + 1) s).tcnt.toNat = n % s.tperiod.toNat := by
  have hwrap : (timerTick s).tcnt.toNat = 0 := congrArg BitVec.toNat (nextCount_of_le h)
  have hin : (timerTick s).tcnt.toNat < (timerTick s).tperiod.toNat := by
    rw [hwrap]
    exact hP
  rw [ticks_succ_eq, toNat_tcnt_ticks hin, hwrap, Nat.zero_add, timerTick_tperiod]

/-- Within a period that begins at `s`, the counter is the number of the tick interval
(43_timer_unit.md R147). -/
theorem toNat_tcnt_ticks_of_lt {s : State} (h0 : s.tcnt = 0) {n : Nat} (hn : n < s.tperiod.toNat) :
    (ticks n s).tcnt.toNat = n := by
  have hzero : s.tcnt.toNat = 0 := by rw [h0]; rfl
  rw [toNat_tcnt_ticks (by omega), hzero, Nat.zero_add, Nat.mod_eq_of_lt hn]

/-- Under a period of 0 or 1 every tick wraps (43_timer_unit.md R149 (a)). -/
theorem tcnt_ticks_succ_of_tperiod_le_one {s : State} (h : s.tperiod.toNat ≤ 1) (n : Nat) :
    (ticks (n + 1) s).tcnt = 0 := by
  refine nextCount_of_le ?_
  rw [ticks_tperiod]
  exact Nat.le_add_left_of_le h

/-! ### The high intervals of a run of ticks -/

theorem highIntervals_succ (n : Nat) (s : State) :
    highIntervals (n + 1) s = highIntervals n s + if tout (ticks n s) = true then 1 else 0 := by
  simp [highIntervals, List.range_succ, List.countP_singleton]

/-- Where `TOUT` is high from tick interval `a` up to, not including, `b`, the first `n` intervals hold that
many high ones. -/
theorem highIntervals_eq_sub {a b n : Nat} {s : State}
    (h : ∀ k, k < n → (tout (ticks k s) = true ↔ a ≤ k ∧ k < b)) :
    highIntervals n s = min b n - min a n := by
  induction n with
  | zero => simp [highIntervals]
  | succ n ih =>
    have hlast := h n (Nat.lt_succ_self n)
    rw [highIntervals_succ, ih fun k hk => h k (Nat.lt_succ_of_lt hk)]
    split
    case isTrue hhigh =>
      obtain ⟨ha, hb⟩ := hlast.mp hhigh
      omega
    case isFalse hlow =>
      have hout : ¬(a ≤ n ∧ n < b) := fun hab => hlow (hlast.mpr hab)
      omega

/-- A period in `RESET_SET` (43_timer_unit.md R147): high in its first intervals. -/
theorem period_resetSet {s : State} (h0 : s.tcnt = 0) (hm : s.tcctl = 0x00E0) :
    highIntervals s.tperiod.toNat s = min s.tcompare.toNat s.tperiod.toNat ∧
      ∀ n, n < s.tperiod.toNat →
        (tout (ticks n s) = true ↔ n < min s.tcompare.toNat s.tperiod.toNat) := by
  have hhigh : ∀ n, n < s.tperiod.toNat →
      (tout (ticks n s) = true ↔ n < min s.tcompare.toNat s.tperiod.toNat) := by
    intro n hn
    rw [tout_iff_of_resetSet (outmod_of_00E0 ((ticks_tcctl n s).trans hm)), ticks_tcompare,
      toNat_tcnt_ticks_of_lt h0 hn]
    omega
  refine ⟨?_, hhigh⟩
  rw [highIntervals_eq_sub fun k hk => (hhigh k hk).trans (iff_and_self.mpr fun _ => Nat.zero_le k)]
  omega

/-- A period in `SET_RESET` (43_timer_unit.md R147): high in its last intervals. -/
theorem period_setReset {s : State} (h0 : s.tcnt = 0) (hm : s.tcctl = 0x0060) :
    highIntervals s.tperiod.toNat s = s.tperiod.toNat - min s.tcompare.toNat s.tperiod.toNat ∧
      ∀ n, n < s.tperiod.toNat →
        (tout (ticks n s) = true ↔ min s.tcompare.toNat s.tperiod.toNat ≤ n) := by
  have hhigh : ∀ n, n < s.tperiod.toNat →
      (tout (ticks n s) = true ↔ min s.tcompare.toNat s.tperiod.toNat ≤ n) := by
    intro n hn
    rw [tout_iff_of_setReset (outmod_of_0060 ((ticks_tcctl n s).trans hm)), ticks_tcompare,
      toNat_tcnt_ticks_of_lt h0 hn]
    omega
  refine ⟨?_, hhigh⟩
  rw [highIntervals_eq_sub fun k hk => (hhigh k hk).trans (iff_self_and.mpr fun _ => hk)]
  omega

/-- In `OFF` no interval is high (43_timer_unit.md R147). -/
theorem highIntervals_of_off {s : State} (hm : s.tcctl = 0x0000) (n : Nat) : highIntervals n s = 0 :=
  List.countP_eq_zero.mpr fun k _ => by
    simp [tout_of_off (outmod_of_0000 ((ticks_tcctl k s).trans hm))]

end Sys2Proof.Safety

namespace Sys2Proof.Proofs

open Sys2Proof.Machine Sys2Proof.Safety

/-- Settles O44: the enabled tick is the step, and it changes the counter alone. -/
theorem tickChangesOnlyTheCounter : Obligations.TickChangesOnlyTheCounter := by
  intro s hc htctl
  rw [step, hc, takeChoice_tick ((dropChoice_tctl s).trans htctl), timerTick_eq, nextCount_eq]
  rfl

/-- Settles O45: (c) is that the counter stays below the period and so below the compare value. -/
theorem timerCornerCases : Obligations.TimerCornerCases := by
  intro s
  refine ⟨⟨tout_of_off, tout_iff_of_setReset, tout_iff_of_resetSet⟩, ?shortPeriod, ?compareZero,
    ?compareAtPeriod, ?abovePeriod, ?countsUp, ?lastValue⟩
  case shortPeriod =>
    intro hP
    refine ⟨tcnt_ticks_succ_of_tperiod_le_one hP, rolloverNext_iff.mpr (Nat.le_add_left_of_le hP),
      fun hm h0 => ?_⟩
    rw [tout_iff_of_resetSet (outmod_of_00E0 hm), h0]
    rfl
  case compareZero =>
    intro hC
    have hzero : s.tcompare.toNat = 0 := by rw [hC]; rfl
    refine ⟨fun hm => ?_, fun hm => ?_⟩
    · rw [← Bool.not_eq_true, tout_iff_of_resetSet (outmod_of_00E0 hm)]
      omega
    · rw [tout_iff_of_setReset (outmod_of_0060 hm)]
      omega
  case compareAtPeriod =>
    intro hPC hin
    refine ⟨fun hm => ?_, fun hm => ?_, fun hmatch => ?_⟩
    · rw [tout_iff_of_resetSet (outmod_of_00E0 hm)]
      omega
    · rw [← Bool.not_eq_true, tout_iff_of_setReset (outmod_of_0060 hm)]
      omega
    · have hlt : (nextCount s).toNat < s.tperiod.toNat := toNat_nextCount_lt (Nat.one_le_of_lt hin)
      rw [← timerTick_tcnt, hmatch] at hlt
      omega
  case abovePeriod =>
    intro hout
    have hwrap : s.tperiod.toNat ≤ s.tcnt.toNat + 1 := Nat.le_succ_of_le hout
    exact ⟨nextCount_of_le hwrap, rolloverNext_iff.mpr hwrap⟩
  case countsUp =>
    intro hne
    have hlt : s.tcnt.toNat + 1 < s.tperiod.toNat := Nat.lt_of_not_le fun h => hne (nextCount_of_le h)
    exact ⟨(toNat_nextCount s).trans (if_pos hlt), hlt⟩
  case lastValue =>
    intro htop
    have hperiod := s.tperiod.isLt
    have hvalue : s.tcnt.toNat = 0xFFFF := by rw [htop]; rfl
    exact nextCount_of_le (by omega)

/-- Settles O46: a period begins at `t`, the state after `m` ticks, and from there the counter is the number
of the tick interval, so that the comparisons of R146 are comparisons of that number. -/
theorem waveformLaw : Obligations.WaveformLaw := by
  rintro s P C htctl rfl rfl hP
  refine ⟨takeAll_replicate_tick htctl, toNat_tcnt_ticks, fun hout =>
    toNat_tcnt_ticks_succ hP (Nat.le_succ_of_le hout), fun n => ⟨fun hm => ?off, fun hm => ?setReset,
    fun hm => ?resetSet⟩, fun m h0 => ?periods⟩
  case off => exact tout_of_off (outmod_of_0000 ((ticks_tcctl n s).trans hm))
  case setReset =>
    rw [tout_iff_of_setReset (outmod_of_0060 ((ticks_tcctl n s).trans hm)), ticks_tcompare]
  case resetSet =>
    rw [tout_iff_of_resetSet (outmod_of_00E0 ((ticks_tcctl n s).trans hm)), ticks_tcompare]
  case periods =>
    have hmode := ticks_tcctl m s
    rw [← ticks_tperiod m s, ← ticks_tcompare m s]
    exact ⟨fun hm => period_resetSet h0 (hmode.trans hm), fun hm => period_setReset h0 (hmode.trans hm),
      fun hm => highIntervals_of_off (hmode.trans hm) _⟩

end Sys2Proof.Proofs
end

section
/-! The pins' own statements (spec/44_port_pin_and_edge_logic.md): roles, levels and what the block drives,
the environment step, and the ways a flag comes to be set or cleared. -/

namespace Sys2Proof.Machine

open Host (Outcome)

/-! ### Roles and levels -/

theorem isPwmPin_iff {s : State} {p : PortId} {b : Pin} :
    isPwmPin s p b = true ↔ p = s.params.pwmPort ∧ b = s.params.pwmBit := by
  simp [isPwmPin]

/-! Which rows of 44_port_pin_and_edge_logic.md R155 give each role: the truth table of `SEL2`, `SEL` and
whether the pin is the PWM pin. -/

theorem role_eq_gpio_iff {s : State} {p : PortId} {b : Pin} :
    role s p b = .gpio ↔ (s.port p).sel2.getLsbD b = false ∧ (s.port p).sel.getLsbD b = false := by
  unfold role
  generalize (s.port p).sel2.getLsbD b = sel2, (s.port p).sel.getLsbD b = sel, isPwmPin s p b = pwm
  revert sel2 sel pwm
  decide

theorem role_eq_timer_iff {s : State} {p : PortId} {b : Pin} :
    role s p b = .timer ↔ (s.port p).sel2.getLsbD b = false ∧ (s.port p).sel.getLsbD b = true ∧
      p = s.params.pwmPort ∧ b = s.params.pwmBit := by
  rw [← isPwmPin_iff, role]
  generalize (s.port p).sel2.getLsbD b = sel2, (s.port p).sel.getLsbD b = sel, isPwmPin s p b = pwm
  revert sel2 sel pwm
  decide

theorem role_eq_unspec_iff {s : State} {p : PortId} {b : Pin} :
    role s p b = .unspec ↔ (s.port p).sel2.getLsbD b = true ∨
      ((s.port p).sel.getLsbD b = true ∧ ¬(p = s.params.pwmPort ∧ b = s.params.pwmBit)) := by
  rw [← isPwmPin_iff, role]
  generalize (s.port p).sel2.getLsbD b = sel2, (s.port p).sel.getLsbD b = sel, isPwmPin s p b = pwm
  revert sel2 sel pwm
  decide

theorem isDigitalInput_iff {s : State} {p : PortId} {b : Pin} :
    isDigitalInput s p b = true ↔ role s p b = .gpio ∧ (s.port p).dir.getLsbD b = false := by
  simp [isDigitalInput]

/-- The second row of 44_port_pin_and_edge_logic.md R158. -/
theorem level_of_timer {s : State} {p : PortId} {b : Pin} (h : role s p b = .timer) :
    level s p b = tout s := by
  simp only [level, h]

theorem level_of_output {s : State} {p : PortId} {b : Pin} (h : role s p b = .gpio)
    (hdir : (s.port p).dir.getLsbD b = true) : level s p b = (s.port p).out.getLsbD b := by
  simp only [level, h, hdir, if_true]

theorem level_of_unspec {s : State} {p : PortId} {b : Pin} (h : role s p b = .unspec) :
    level s p b = (s.env p).flt.get b := by
  simp only [level, h]

/-- A driven input has the level of its drive. -/
theorem inputLevel_of_high {s : State} {p : PortId} {b : Pin} (h : (s.env p).ext.get b = .H) :
    inputLevel s p b = true := by
  simp only [inputLevel, h]

theorem inputLevel_of_low {s : State} {p : PortId} {b : Pin} (h : (s.env p).ext.get b = .L) :
    inputLevel s p b = false := by
  simp only [inputLevel, h]

/-- An input that nothing drives has the level of its pull resistor, or floats. -/
theorem inputLevel_of_undriven {s : State} {p : PortId} {b : Pin} (h : (s.env p).ext.get b = .Z) :
    inputLevel s p b =
      if (s.port p).ren.getLsbD b then (s.port p).out.getLsbD b else (s.env p).flt.get b := by
  simp only [inputLevel, h]

/-! ### What the block drives -/

theorem blockDrive_of_timer {s : State} {p : PortId} {b : Pin} (h : role s p b = .timer) :
    blockDrive s p b = some (tout s) := by
  simp only [blockDrive, h]

theorem blockDrive_of_gpio {s : State} {p : PortId} {b : Pin} (h : role s p b = .gpio) :
    blockDrive s p b =
      if (s.port p).dir.getLsbD b then some ((s.port p).out.getLsbD b) else none := by
  simp only [blockDrive, h]

theorem blockDrive_of_unspec {s : State} {p : PortId} {b : Pin} (h : role s p b = .unspec) :
    blockDrive s p b = Config.unspecDrive s.ticket p b := by
  simp only [blockDrive, h]

/-- What the block drives on a pin of a defined role wins over the outside
(44_port_pin_and_edge_logic.md R156, R158). -/
theorem level_of_blockDrive {s : State} {p : PortId} {b : Pin} {v : Bool}
    (hrole : role s p b ≠ .unspec) (h : blockDrive s p b = some v) : level s p b = v := by
  cases hr : role s p b with
  | gpio =>
    rw [blockDrive_of_gpio hr] at h
    split at h
    case isTrue hdir => exact (level_of_output hr hdir).trans (Option.some.inj h)
    case isFalse => cases h
  | timer =>
    rw [blockDrive_of_timer hr] at h
    exact (level_of_timer hr).trans (Option.some.inj h)
  | unspec => exact absurd hr hrole

/-! ### Requests -/

/-- A byte that is not zero has a bit that is 1. -/
theorem byte_ne_zero_iff {x : Byte} : x ≠ 0 ↔ ∃ b : Pin, x.getLsbD b = true := by
  refine ⟨fun h => ?_, ?_⟩
  · by_contra hnone
    push Not at hnone
    exact h (byte_ext fun b => by simpa using hnone b)
  · rintro ⟨b, hb⟩ rfl
    simp at hb

theorem requests_iff {s : State} {p : PortId} :
    requests s p = true ↔
      ∃ b : Pin, (s.port p).ifg.getLsbD b = true ∧ (s.port p).ie.getLsbD b = true := by
  rw [requests, bne_iff_ne, byte_ne_zero_iff]
  simp only [BitVec.getLsbD_and, Bool.and_eq_true]

/-! ### The changes of an environment step -/

theorem env_applyChange_ext (s : State) (p q : PortId) (b : Pin) (d : Drive) :
    (applyChange s (.ext p b d)).env q =
      if q = p then { s.env p with ext := (s.env p).ext.set b d } else s.env q :=
  env_setEnv s p q _

theorem env_applyChange_flt (s : State) (p q : PortId) (b : Pin) (v : Bool) :
    (applyChange s (.flt p b v)).env q =
      if q = p then { s.env p with flt := (s.env p).flt.set b v } else s.env q :=
  env_setEnv s p q _

theorem get_set_pin {α : Type} (xs : Vector α 8) (b c : Pin) (x : α) :
    (xs.set b x).get c = if c = b then x else xs.get c := by
  simp only [Vector.get_eq_getElem, Vector.getElem_set, Fin.ext_iff, eq_comm]

/-- A change of the environment touches the environment's side of the pins alone. -/
theorem applyChange_frame (s : State) (c : PinChange) :
    ∃ e0 e1, applyChange s c = { s with env0 := e0, env1 := e1 } := by
  cases c with
  | ext p b d => cases p <;> exact ⟨_, _, rfl⟩
  | flt p b v => cases p <;> exact ⟨_, _, rfl⟩

theorem applyChanges_frame (cs : List PinChange) (s : State) :
    ∃ e0 e1, applyChanges cs s = { s with env0 := e0, env1 := e1 } := by
  induction cs generalizing s with
  | nil => exact ⟨_, _, rfl⟩
  | cons c cs ih =>
    obtain ⟨d0, d1, hc⟩ := applyChange_frame s c
    obtain ⟨e0, e1, hcs⟩ := ih (applyChange s c)
    exact ⟨e0, e1, hcs.trans (by rw [hc])⟩

/-- An environment step changes the environment's side of the pins and the flags alone
(44_port_pin_and_edge_logic.md R161). -/
theorem environmentStep_frame (cs : List PinChange) (s : State) :
    environmentStep cs s = { s with
      env0 := (environmentStep cs s).env0
      env1 := (environmentStep cs s).env1
      port0 := { s.port0 with ifg := (environmentStep cs s).port0.ifg }
      port1 := { s.port1 with ifg := (environmentStep cs s).port1.ifg } } := by
  obtain ⟨e0, e1, h⟩ := applyChanges_frame cs s
  rw [environmentStep, h]
  rfl

/-- An environment step without a change is no change at all (44_port_pin_and_edge_logic.md R161). -/
theorem environmentStep_nil (s : State) : environmentStep [] s = s :=
  edgeEval_self s

/-- An environment step is always enabled (70_reset_and_hazards.md R213). -/
theorem takeChoice_environment (cs : List PinChange) (s : State) :
    takeChoice (.environment cs) s = .next (environmentStep cs s) :=
  if_pos rfl

/-! ### What levels and edges depend on -/

/-- `t` has the pins of `s`: its ports differ from those of `s` in `IE` and `IFG` alone, and all else that
decides a level or arms an edge is as in `s` (44_port_pin_and_edge_logic.md R158, R163). -/
structure SamePins (s t : State) : Prop where
  port : ∀ p, ∃ mask flags, t.port p = { s.port p with ie := mask, ifg := flags }
  env : ∀ p, t.env p = s.env p
  params : t.params = s.params
  tcctl : t.tcctl = s.tcctl
  tcnt : t.tcnt = s.tcnt
  tcompare : t.tcompare = s.tcompare

theorem SamePins.of_port_eq {s t : State} (hport : ∀ p, t.port p = s.port p)
    (henv : ∀ p, t.env p = s.env p) (hparams : t.params = s.params) (htcctl : t.tcctl = s.tcctl)
    (htcnt : t.tcnt = s.tcnt) (htcompare : t.tcompare = s.tcompare) : SamePins s t :=
  ⟨fun p => ⟨_, _, hport p⟩, henv, hparams, htcctl, htcnt, htcompare⟩

theorem SamePins.refl (s : State) : SamePins s s :=
  .of_port_eq (fun _ => rfl) (fun _ => rfl) rfl rfl rfl rfl

theorem SamePins.symm {s t : State} (h : SamePins s t) : SamePins t s where
  port p := by
    obtain ⟨mask, flags, hport⟩ := h.port p
    exact ⟨(s.port p).ie, (s.port p).ifg, by rw [hport]⟩
  env p := (h.env p).symm
  params := h.params.symm
  tcctl := h.tcctl.symm
  tcnt := h.tcnt.symm
  tcompare := h.tcompare.symm

theorem SamePins.tout_eq {s t : State} (h : SamePins s t) : tout t = tout s :=
  tout_congr h.tcctl h.tcnt h.tcompare

theorem SamePins.level_eq {s t : State} (h : SamePins s t) (p : PortId) (b : Pin) :
    level t p b = level s p b := by
  obtain ⟨mask, flags, hport⟩ := h.port p
  exact level_congr b (by rw [hport]) (by rw [hport]) (by rw [hport]) (by rw [hport]) (by rw [hport])
    (h.env p) h.params h.tout_eq

theorem SamePins.isDigitalInput_eq {s t : State} (h : SamePins s t) (p : PortId) (b : Pin) :
    isDigitalInput t p b = isDigitalInput s p b := by
  obtain ⟨mask, flags, hport⟩ := h.port p
  exact isDigitalInput_congr b (by rw [hport]) (by rw [hport]) (by rw [hport]) h.params

theorem SamePins.ies_eq {s t : State} (h : SamePins s t) (p : PortId) :
    (t.port p).ies = (s.port p).ies := by
  obtain ⟨mask, flags, hport⟩ := h.port p
  rw [hport]

/-- What is latched depends on the pins before and after alone: `IE` and the modes play no part
(44_port_pin_and_edge_logic.md R163). -/
theorem SamePins.latches_eq {s s' t t' : State} (hs : SamePins s s') (ht : SamePins t t') (p : PortId)
    (b : Pin) : latches s' t' p b = latches s t p b := by
  simp only [latches, armedEdge, risingEdge, fallingEdge, hs.isDigitalInput_eq, ht.isDigitalInput_eq,
    hs.level_eq, ht.level_eq, ht.ies_eq]

theorem SamePins.latchedFlags_eq {s s' t t' : State} (hs : SamePins s s') (ht : SamePins t t')
    (p : PortId) : latchedFlags s' t' p = latchedFlags s t p :=
  congrArg ofPins (funext (hs.latches_eq ht p))

/-- A step that keeps the pins has no edge to latch. -/
theorem SamePins.latches_eq_false {s t : State} (h : SamePins s t) (p : PortId) (b : Pin) :
    latches s t p b = false :=
  latches_eq_false_of_level_eq (h.level_eq p b)

theorem samePins_dropChoice (s : State) : SamePins s (dropChoice s) :=
  .of_port_eq (port_dropChoice s) (env_dropChoice s) rfl rfl rfl rfl

/-- The state in which an operation begins has the pins of the state before the step. -/
theorem samePins_withIesDraw_dropChoice (d : Byte) (s : State) :
    SamePins s (withIesDraw d (dropChoice s)) :=
  .of_port_eq (by simp) (by simp) rfl rfl rfl rfl

theorem samePins_withFault (f : Fault) (s : State) : SamePins s (withFault f s) :=
  .of_port_eq (port_withFault f s) (env_withFault f s) rfl rfl rfl rfl

theorem samePins_completeOperation (s : State) : SamePins s (completeOperation s) :=
  .of_port_eq (by simp) (by simp) (by simp) (by simp) (by simp) (by simp)

/-- Edge evaluation itself changes flags alone. -/
theorem samePins_edgeEval (s0 s1 : State) : SamePins s1 (edgeEval s0 s1) :=
  ⟨fun p => ⟨_, _, port_edgeEval s0 s1 p⟩, env_edgeEval s0 s1, rfl, rfl, rfl, rfl⟩

/-- What a completed write does beyond writing its register, it does to flags and `pc` alone. -/
theorem samePins_commitWrite (r : Reg) (new : Half) (s : State) :
    SamePins (writeReg s r new) (commitWrite r new s) :=
  ⟨fun p => ⟨_, _, port_commitWrite r new s p⟩, by simp, by simp, commitWrite_tcctl r new s,
    commitWrite_tcnt r new s, commitWrite_tcompare r new s⟩

/-- The same changes of the environment keep two states alike in their pins. -/
theorem SamePins.applyChange {s t : State} (h : SamePins s t) (c : PinChange) :
    SamePins (applyChange s c) (applyChange t c) where
  port p := by cases c <;> simpa [Machine.applyChange] using h.port p
  env p := by
    cases c with
    | ext q b d => simp only [env_applyChange_ext, h.env]
    | flt q b v => simp only [env_applyChange_flt, h.env]
  params := by simpa using h.params
  tcctl := by simpa using h.tcctl
  tcnt := by simpa using h.tcnt
  tcompare := by simpa using h.tcompare

theorem SamePins.applyChanges {s t : State} (h : SamePins s t) (cs : List PinChange) :
    SamePins (applyChanges cs s) (applyChanges cs t) := by
  induction cs generalizing s t with
  | nil => exact h
  | cons c cs ih => exact ih (h.applyChange c)

/-- The armed edges as 44_port_pin_and_edge_logic.md R163 lists them: `IES` 0 arms the rising one, 1 the
falling one. -/
theorem latches_iff {s t : State} {p : PortId} {b : Pin} :
    latches s t p b = true ↔ isDigitalInput s p b = true ∧ isDigitalInput t p b = true ∧
      (((t.port p).ies.getLsbD b = false ∧ level s p b = false ∧ level t p b = true) ∨
        ((t.port p).ies.getLsbD b = true ∧ level s p b = true ∧ level t p b = false)) := by
  rw [latches, armedEdge, risingEdge, fallingEdge, Bool.and_eq_true, Bool.and_eq_true, and_assoc]
  cases (t.port p).ies.getLsbD b <;> simp

/-! ### The flags after an operation -/

/-- Every pin has the level it had. -/
def SameLevels (s t : State) : Prop :=
  ∀ (q : PortId) (b : Pin), level t q b = level s q b

theorem SamePins.sameLevels {s t : State} (h : SamePins s t) : SameLevels s t :=
  h.level_eq

/-- No level depends on `IES` (44_port_pin_and_edge_logic.md R158). -/
theorem level_writeReg_portIes (s : State) (p : PortId) (v : Half) (q : PortId) (b : Pin) :
    level (writeReg s (.portIes p) v) q b = level s q b := by
  have hport : ∃ edges, (writeReg s (.portIes p) v).port q = { s.port q with ies := edges } := by
    by_cases h : q = p
    · subst h
      exact ⟨_, port_setPort_same s q _⟩
    · exact ⟨_, port_setPort_ne s _ h⟩
  obtain ⟨edges, hport⟩ := hport
  exact level_congr b (by rw [hport]) (by rw [hport]) (by rw [hport]) (by rw [hport]) (by rw [hport])
    (env_writeReg s _ v q) (writeReg_params s _ v)
    (tout_congr (setPort_tcctl s p _) (setPort_tcnt s p _) (setPort_tcompare s p _))

/-- A completed write of `IFG` moves no level (44_port_pin_and_edge_logic.md R169). -/
theorem sameLevels_commitWrite_portIfg (p : PortId) (new : Half) (s : State) :
    SameLevels s (commitWrite (.portIfg p) new s) := fun q b =>
  (level_commitWrite _ new s q b).trans (level_writeReg_portIfg s p new q b)

theorem sameLevels_commitWrite_portIes (p : PortId) (new : Half) (s : State) :
    SameLevels s (commitWrite (.portIes p) new s) := fun q b =>
  (level_commitWrite _ new s q b).trans (level_writeReg_portIes s p new q b)

/-- A completed write of `IES` leaves the value written in it. -/
theorem ies_commitWrite_portIes (p : PortId) (new : Half) (s : State) :
    ((commitWrite (.portIes p) new s).port p).ies = new.setWidth 8 := by
  rw [port_commitWrite]
  simp [writeReg]

/-- Between `s` and `t` hardware does with the flag of pin `(p, b)` what 44_port_pin_and_edge_logic.md
R163 and R164 let it do: it keeps it, or sets it where the pin latches. -/
def FlagLatched (s t : State) (p : PortId) (b : Pin) : Prop :=
  (t.port p).ifg.getLsbD b = ((s.port p).ifg.getLsbD b || latches s t p b)

/-- Operation `i` writes the flag of pin `(p, b)` from `old` to `new` (40_register_ops.md R101 to R103,
44_port_pin_and_edge_logic.md R164, R165). -/
def WritesFlag (i : Instr) (p : PortId) (b : Pin) (old new : Bool) : Prop :=
  ∃ a k, regAt a = some (.portIfg p) ∧
    (i = .wr a k ∧ new = k.getLsbD b ∨ i = .bis a k ∧ new = (old || k.getLsbD b) ∨
      i = .bic a k ∧ new = (old && !k.getLsbD b))

/-- The flag of pin `(p, b)` is set as a side effect of a change of the pin's Edge-Select bit
(44_port_pin_and_edge_logic.md R167). -/
def FlagDrawn (s t : State) (p : PortId) (b : Pin) : Prop :=
  s.params.iesWriteMaySetFlag = true ∧ (t.port p).ies.getLsbD b ≠ (s.port p).ies.getLsbD b ∧
    (t.port p).ifg.getLsbD b = true

/-- A step that keeps pins and flags is one in which nothing latches. -/
theorem SamePins.flagLatched {s t : State} (h : SamePins s t) {p : PortId}
    (hifg : (t.port p).ifg = (s.port p).ifg) (b : Pin) : FlagLatched s t p b := by
  rw [FlagLatched, hifg, h.latches_eq_false, Bool.or_false]

/-- Whether a flag is latched depends on the pins and the flags alone. -/
theorem FlagLatched.congr {s s' t t' : State} {p : PortId} {b : Pin} (h : FlagLatched s t p b)
    (hs : SamePins s s') (ht : SamePins t t') (hsifg : (s'.port p).ifg = (s.port p).ifg)
    (htifg : (t'.port p).ifg = (t.port p).ifg) : FlagLatched s' t' p b := by
  rw [FlagLatched, hsifg, htifg, hs.latches_eq ht]
  exact h

/-- Edge evaluation after a change that leaves the flags latches and does nothing else to them
(44_port_pin_and_edge_logic.md R163). -/
theorem flagLatched_edgeEval {s0 s1 : State} {p : PortId} (hifg : (s1.port p).ifg = (s0.port p).ifg)
    (b : Pin) : FlagLatched s0 (edgeEval s0 s1) p b := by
  rw [FlagLatched, (SamePins.refl s0).latches_eq (samePins_edgeEval s0 s1), port_edgeEval_ifg, hifg]

/-- A bit of the value a write of `IFG` computes, by the kind of write. -/
theorem writesFlag_of_write {i : Instr} {a : RegAddr} {k new : Half} {p : PortId} (s : State) (b : Pin)
    (ha : regAt a = some (.portIfg p))
    (hi : i = .wr a k ∧ new = k ∨ i = .bis a k ∧ new = setBits (readReg s (.portIfg p)) k ∨
      i = .bic a k ∧ new = clearBits (readReg s (.portIfg p)) k) :
    WritesFlag i p b ((s.port p).ifg.getLsbD b) (new.getLsbD b) := by
  have hb : b.val < 16 := by omega
  refine ⟨a, k, ha, ?_⟩
  rcases hi with ⟨hi, rfl⟩ | ⟨hi, rfl⟩ | ⟨hi, rfl⟩
  · exact .inl ⟨hi, rfl⟩
  · exact .inr (.inl ⟨hi, by simp [setBits, readReg, hb]⟩)
  · exact .inr (.inr ⟨hi, by simp [clearBits, readReg, hb]⟩)

/-- Everything a completed write of another register than the port's `IFG` can do to a flag. -/
theorem flag_commitWrite_cases (s : State) {r : Reg} (new : Half) {p : PortId} (b : Pin)
    (h : r ≠ .portIfg p) :
    FlagLatched s (commitWrite r new s) p b ∨
      (SameLevels s (commitWrite r new s) ∧ FlagDrawn s (commitWrite r new s) p b) := by
  have hflag := Safety.getLsbD_ifg_commitWrite s new b h
  by_cases hdraw : Safety.EdgeSelectDraw s r new p b
  · right
    have hset := hflag.mpr (.inr (.inr hdraw))
    obtain ⟨hmay, rfl, hne, -⟩ := hdraw
    refine ⟨sameLevels_commitWrite_portIes p new s, hmay, ?_, hset⟩
    rw [ies_commitWrite_portIes]
    simpa using hne.symm
  · left
    rw [FlagLatched, (SamePins.refl s).latches_eq (samePins_commitWrite r new s), Bool.eq_iff_iff,
      hflag, Bool.or_eq_true]
    simp only [hdraw, or_false]

/-- Everything an operation can do to a flag: leave it or latch it, write it, or draw it
(44_port_pin_and_edge_logic.md R163 to R167). The last two move no level (R169). -/
theorem exec_flag_cases {i : Instr} {s t : State} (h : exec i s = .next t) (p : PortId) (b : Pin) :
    FlagLatched s t p b ∨
      (SameLevels s t ∧
        (WritesFlag i p b ((s.port p).ifg.getLsbD b) ((t.port p).ifg.getLsbD b) ∨
          FlagDrawn s t p b)) := by
  rcases exec_cases h with ⟨e, rfl⟩ | ⟨r, new, -, -, -, -, rfl, a, k, ha, hi⟩ | ⟨x, -, rfl, -⟩ |
    ⟨-, -, -, rfl⟩ | ⟨-, -, rfl⟩
  · exact .inl ((samePins_withFault e s).flagLatched (by simp) b)
  · by_cases hr : r = .portIfg p
    · subst hr
      refine .inr ⟨sameLevels_commitWrite_portIfg p new s, .inl ?_⟩
      rw [ifg_commitWrite_portIfg]
      simpa using writesFlag_of_write s b ha hi
    · exact (flag_commitWrite_cases s new b hr).imp_right (And.imp_right .inr)
  · have hpins : SamePins s (withPc (BitVec.ofInt 6 x) s) :=
      .of_port_eq (by simp) (by simp) rfl rfl rfl rfl
    exact .inl (hpins.flagLatched (by simp) b)
  · have hpins : SamePins s (advancePc { s with gie := true, lpm := .wait }) :=
      .of_port_eq (by rintro ⟨⟩ <;> rfl) (by rintro ⟨⟩ <;> rfl) rfl rfl rfl rfl
    exact .inl (hpins.flagLatched (by cases p <;> rfl) b)
  · have hpins : SamePins s (returnFromHandler s) :=
      .of_port_eq (by simp) (by simp) rfl rfl rfl rfl
    exact .inl (hpins.flagLatched (by simp) b)

/-! ### The flags after a step -/

/-- Everything a sequencer step can do to a flag. -/
theorem operationStep_flag_cases {s t : State} (h : operationStep s = .next t) (p : PortId) (b : Pin) :
    FlagLatched s t p b ∨
      (SameLevels s t ∧
        ((∃ i, decode (fetch s) = .ok i ∧
            WritesFlag i p b ((s.port p).ifg.getLsbD b) ((t.port p).ifg.getLsbD b)) ∨
          FlagDrawn s t p b)) := by
  rcases operationStep_cases h with ⟨-, rfl⟩ | ⟨i, u, hi, hu, rfl⟩
  · exact .inl ((samePins_withFault _ s).flagLatched (by simp) b)
  have hend := samePins_completeOperation u
  rcases exec_flag_cases hu p b with hlatch | ⟨hlevels, hcause⟩
  · exact .inl (hlatch.congr (.refl s) hend rfl (by simp))
  · refine .inr ⟨fun q c => (hend.level_eq q c).trans (hlevels q c), ?_⟩
    rw [FlagDrawn, port_completeOperation]
    exact hcause.imp_left fun hw => ⟨i, hi, hw⟩

/-- Everything a step can do to a flag: hardware keeps it or latches it; a sequencer operation writes it
or draws it, and then moves no level; or a reset clears it (44_port_pin_and_edge_logic.md R163 to R169). -/
theorem step_flag_cases {s t : State} (h : step s = .next t) (p : PortId) (b : Pin) :
    FlagLatched s t p b ∨
      (SameLevels s t ∧
        ((∃ d i, nextChoice s = .operation d ∧ decode (fetch s) = .ok i ∧
            WritesFlag i p b ((s.port p).ifg.getLsbD b) ((t.port p).ifg.getLsbD b)) ∨
          FlagDrawn s t p b)) ∨
      ((t.port p).ifg.getLsbD b = false ∧
        ∃ d, nextChoice s = .watchdogExpiry d ∨ nextChoice s = .powerOnReset d) := by
  have hdrop := samePins_dropChoice s
  rcases step_kinds h with rfl | ⟨d, hc, -, -, hop⟩ | ⟨q, -, -, -, -, rfl⟩ | ⟨-, -, rfl⟩ |
    ⟨cs, -, rfl⟩ | ⟨d, hc, rfl⟩
  · exact .inl (hdrop.flagLatched (by simp) b)
  · have hbegin := samePins_withIesDraw_dropChoice d s
    rcases operationStep_flag_cases hop p b with hlatch | ⟨hlevels, hcause⟩
    · exact .inl (hlatch.congr hbegin.symm (.refl t) (by simp) rfl)
    · refine .inr (.inl ⟨fun q c => (hlevels q c).trans (hbegin.level_eq q c), ?_⟩)
      simp only [FlagDrawn, port_withIesDraw, port_dropChoice, withIesDraw_params,
        dropChoice_params, fetch_withIesDraw_dropChoice] at hcause
      exact hcause.imp_left fun ⟨i, hi, hw⟩ => ⟨d, i, hc, hi, hw⟩
  · have hpins : SamePins s (acceptInterrupt q (dropChoice s)) :=
      .of_port_eq (by simp) (by simp) (by simp) (by simp) (by simp) (by simp)
    exact .inl (hpins.flagLatched (by simp) b)
  · have hifg : (({ dropChoice s with tcnt := nextCount (dropChoice s) } : State).port p).ifg =
        ((dropChoice s).port p).ifg := by cases p <;> rfl
    exact .inl ((flagLatched_edgeEval hifg b).congr hdrop.symm (.refl _) (by simp) rfl)
  · have hifg : ((applyChanges cs (dropChoice s)).port p).ifg = ((dropChoice s).port p).ifg := by
      rw [port_applyChanges]
    exact .inl ((flagLatched_edgeEval hifg b).congr hdrop.symm (.refl _) (by simp) rfl)
  · exact .inr (.inr ⟨by cases p <;> simp [State.port, resetPort], d, hc⟩)

/-- A write of `IFG` moves no level, whether it completes or faults (44_port_pin_and_edge_logic.md
R169). -/
theorem exec_sameLevels_of_writes_portIfg {i : Instr} {a : RegAddr} {k : Half} {p : PortId}
    {s t : State} (h : exec i s = .next t) (ha : regAt a = some (.portIfg p))
    (hi : i = .wr a k ∨ i = .bis a k ∨ i = .bic a k) : SameLevels s t := by
  have hwrite : ∃ f, writePath a k f s = .next t := by
    rcases hi with rfl | rfl | rfl
    exacts [⟨writeValue, h⟩, ⟨setBits, h⟩, ⟨clearBits, h⟩]
  obtain ⟨f, hf⟩ := hwrite
  rcases writePath_cases hf with ⟨e, rfl⟩ | ⟨r, hr, -, -, -, -, rfl⟩
  · exact (samePins_withFault e s).sameLevels
  · cases ha.symm.trans hr
    exact sameLevels_commitWrite_portIfg p _ s

/-- A step whose choice is an operation that writes `IFG` moves no level, whether it is enabled or not. -/
theorem step_sameLevels_of_writes_portIfg {i : Instr} {a : RegAddr} {k : Half} {p : PortId} {d : Byte}
    {s t : State} (h : step s = .next t) (hc : nextChoice s = .operation d)
    (hdec : decode (fetch s) = .ok i) (ha : regAt a = some (.portIfg p))
    (hi : i = .wr a k ∨ i = .bis a k ∨ i = .bic a k) : SameLevels s t := by
  rcases step_cases h with ⟨-, rfl⟩ | ⟨-, hperform⟩
  · exact (samePins_dropChoice s).sameLevels
  rw [hc] at hperform
  rcases operationStep_cases hperform with ⟨⟨e, he⟩, -⟩ | ⟨j, u, hj, hu, rfl⟩
  · cases hdec.symm.trans he
  · cases hdec.symm.trans hj
    intro q b
    rw [(samePins_completeOperation u).level_eq, exec_sameLevels_of_writes_portIfg hu ha hi,
      (samePins_withIesDraw_dropChoice d s).level_eq]

/-! ### Two states that differ in `IE`, `GIE` and `LPM` -/

/-- The state with other interrupt enables, another `GIE` and another `LPM`. -/
def withMasks (m0 m1 : Byte) (g : Bool) (l : LowPower) (s : State) : State :=
  { s with
    port0 := { s.port0 with ie := m0 }
    port1 := { s.port1 with ie := m1 }
    gie := g
    lpm := l }

theorem samePins_withMasks (m0 m1 : Byte) (g : Bool) (l : LowPower) (s : State) :
    SamePins s (withMasks m0 m1 g l s) :=
  ⟨by rintro ⟨⟩ <;> exact ⟨_, _, rfl⟩, by rintro ⟨⟩ <;> rfl, rfl, rfl, rfl, rfl⟩

@[simp] theorem ifg_withMasks (m0 m1 : Byte) (g : Bool) (l : LowPower) (s : State) (p : PortId) :
    ((withMasks m0 m1 g l s).port p).ifg = (s.port p).ifg := by
  cases p <;> rfl

@[simp] theorem withMasks_iesDraw (m0 m1 : Byte) (g : Bool) (l : LowPower) (s : State) :
    (withMasks m0 m1 g l s).iesDraw = s.iesDraw := rfl

/-- Every register but the interrupt enables reads the same. -/
theorem readReg_withMasks (m0 m1 : Byte) (g : Bool) (l : LowPower) (s : State) {r : Reg}
    (h : ∀ p, r ≠ .portIe p) : readReg (withMasks m0 m1 g l s) r = readReg s r := by
  cases r with
  | portIn p =>
    simp only [readReg, inputByte, funext ((samePins_withMasks m0 m1 g l s).level_eq p)]
  | portIe p => exact absurd rfl (h p)
  | portOut p | portDir p | portRen p | portIes p | portSel p | portSel2 p | portIfg p =>
    cases p <;> rfl
  | _ => rfl

/-- The same register write keeps two states alike in their pins. -/
theorem SamePins.writeReg {s t : State} (h : SamePins s t) (r : Reg) (v : Half) :
    SamePins (writeReg s r v) (writeReg t r v) where
  port q := by
    obtain ⟨mask, flags, hq⟩ := h.port q
    cases r with
    | portOut p | portDir p | portRen p | portIes p | portSel p | portSel2 p | portIe p | portIfg p =>
      simp only [Machine.writeReg, port_setPort]
      split
      case isTrue hqp =>
        subst hqp
        rw [hq]
        exact ⟨_, _, rfl⟩
      case isFalse => exact ⟨_, _, hq⟩
    | _ => cases q <;> exact ⟨_, _, hq⟩
  env q := by simpa using h.env q
  params := by simpa using h.params
  tcctl := by cases r <;> simp [Machine.writeReg, h.tcctl]
  tcnt := by cases r <;> simp [Machine.writeReg, h.tcnt]
  tcompare := by cases r <;> simp [Machine.writeReg, h.tcompare]

theorem samePins_writeReg_portIe (p : PortId) (v : Half) (s : State) :
    SamePins s (writeReg s (.portIe p) v) where
  port q := by
    simp only [writeReg, port_setPort]
    split
    case isTrue hqp =>
      subst hqp
      exact ⟨_, _, rfl⟩
    case isFalse => exact ⟨_, _, rfl⟩
  env := env_writeReg s _ v
  params := writeReg_params s _ v
  tcctl := setPort_tcctl s p _
  tcnt := setPort_tcnt s p _
  tcompare := setPort_tcompare s p _

theorem ifg_environmentStep_withMasks (cs : List PinChange) (m0 m1 : Byte) (g : Bool) (l : LowPower)
    (s : State) (p : PortId) :
    ((environmentStep cs (withMasks m0 m1 g l s)).port p).ifg = ((environmentStep cs s).port p).ifg := by
  have hpins := samePins_withMasks m0 m1 g l s
  simp only [environmentStep, port_edgeEval, port_applyChanges, ifg_withMasks,
    hpins.latchedFlags_eq (hpins.applyChanges cs)]

/-- A tick latches nothing under any masks (43_timer_unit.md R142). -/
theorem ifg_timerTick_withMasks (m0 m1 : Byte) (g : Bool) (l : LowPower) (s : State) (p : PortId) :
    ((timerTick (withMasks m0 m1 g l s)).port p).ifg = ((timerTick s).port p).ifg := by
  rw [port_timerTick, port_timerTick, ifg_withMasks]

/-- A completed write of `IE` leaves every flag (44_port_pin_and_edge_logic.md R164). -/
theorem ifg_commitWrite_portIe (p : PortId) (v : Half) (s : State) (q : PortId) :
    ((commitWrite (.portIe p) v s).port q).ifg = (s.port q).ifg := by
  rw [port_commitWrite, latchedFlags_eq_zero ((samePins_writeReg_portIe p v s).latches_eq_false q),
    if_neg (by simp), ifg_writeReg_of_ne s v (by simp)]
  simp

theorem ifg_writePath_portIe {a : RegAddr} {k : Half} {f : Half → Half → Half} {s t : State}
    {p q : PortId} (ha : regAt a = some (.portIe q)) (h : writePath a k f s = .next t) :
    (t.port p).ifg = (s.port p).ifg := by
  rcases writePath_cases h with ⟨e, rfl⟩ | ⟨r, hr, -, -, -, -, rfl⟩
  · rw [port_withFault]
  · cases ha.symm.trans hr
    exact ifg_commitWrite_portIe q _ s p

/-- A completed write of any other register latches and draws the same flags under any masks. -/
theorem ifg_commitWrite_withMasks (m0 m1 : Byte) (g : Bool) (l : LowPower) (s : State) {r : Reg}
    (new : Half) (h : ∀ q, r ≠ .portIe q) (p : PortId) :
    ((commitWrite r new (withMasks m0 m1 g l s)).port p).ifg = ((commitWrite r new s).port p).ifg := by
  have hpins := samePins_withMasks m0 m1 g l s
  have hwritten : ((writeReg (withMasks m0 m1 g l s) r new).port p).ifg =
      ((writeReg s r new).port p).ifg := by
    by_cases hr : r = .portIfg p
    · subst hr
      simp [writeReg]
    · rw [ifg_writeReg_of_ne _ new hr, ifg_writeReg_of_ne s new hr, ifg_withMasks]
  rw [port_commitWrite, port_commitWrite]
  simp only [hwritten, hpins.latchedFlags_eq (hpins.writeReg r new), readReg_withMasks m0 m1 g l s h,
    hpins.params, withMasks_iesDraw]

/-- Two states that agree on `pc` and on the register at the address fail the checks of the write path
together, or complete with the same value (40_register_ops.md R100). -/
theorem writePath_cases_of_agree {a : RegAddr} {r : Reg} (k : Half) (f : Half → Half → Half)
    {s s' : State} (hr : regAt a = some r) (hread : readReg s' r = readReg s r) (hpc : s'.pc = s.pc) :
    (∃ e, writePath a k f s = .next (withFault e s) ∧ writePath a k f s' = .next (withFault e s')) ∨
      (writePath a k f s = .next (commitWrite r (f (readReg s r) k) s) ∧
        writePath a k f s' = .next (commitWrite r (f (readReg s r) k) s')) := by
  have hlast : atLastAddress s' = atLastAddress s := by simp only [atLastAddress, hpc]
  simp only [writePath, hr, hread, hlast, raise_eq]
  split_ifs
  · exact .inl ⟨_, rfl, rfl⟩
  · exact .inl ⟨_, rfl, rfl⟩
  · exact .inl ⟨_, rfl, rfl⟩
  · exact .inl ⟨_, rfl, rfl⟩
  · exact .inr ⟨rfl, rfl⟩

/-- The write path leaves the same flags under any masks. A write of `IE` is apart, since its value may
depend on the masks: it leaves every flag. -/
theorem ifg_writePath_withMasks {a : RegAddr} {k : Half} {f : Half → Half → Half} {m0 m1 : Byte}
    {g : Bool} {l : LowPower} {s t t' : State} (h : writePath a k f s = .next t)
    (h' : writePath a k f (withMasks m0 m1 g l s) = .next t') (p : PortId) :
    (t'.port p).ifg = (t.port p).ifg := by
  by_cases hie : ∃ q, regAt a = some (.portIe q)
  · obtain ⟨q, hq⟩ := hie
    rw [ifg_writePath_portIe hq h, ifg_writePath_portIe hq h', ifg_withMasks]
  cases hr : regAt a with
  | none =>
    rw [writePath_of_unmapped k f _ hr] at h h'
    rw [← Outcome.next.inj h, ← Outcome.next.inj h']
    simp
  | some r =>
    have hne : ∀ q, r ≠ .portIe q := fun q hq => hie ⟨q, hq ▸ hr⟩
    rcases writePath_cases_of_agree k f hr (readReg_withMasks m0 m1 g l s hne) rfl with
      ⟨e, hs, hs'⟩ | ⟨hs, hs'⟩
    · rw [← Outcome.next.inj (hs.symm.trans h), ← Outcome.next.inj (hs'.symm.trans h')]
      simp
    · rw [← Outcome.next.inj (hs.symm.trans h), ← Outcome.next.inj (hs'.symm.trans h')]
      exact ifg_commitWrite_withMasks m0 m1 g l s _ hne p

/-- An operation that is no register write leaves every flag. -/
theorem ifg_exec_of_not_write {i : Instr} {s t : State} (h : exec i s = .next t)
    (hi : ∀ a k, i ≠ .wr a k ∧ i ≠ .bis a k ∧ i ≠ .bic a k) (p : PortId) :
    (t.port p).ifg = (s.port p).ifg := by
  rcases exec_cases h with ⟨e, rfl⟩ | ⟨r, new, -, -, -, -, -, a, k, -, hw⟩ | ⟨x, -, rfl, -⟩ |
    ⟨-, -, -, rfl⟩ | ⟨-, -, rfl⟩
  · rw [port_withFault]
  · obtain ⟨hwr, hbis, hbic⟩ := hi a k
    rcases hw with ⟨hw, -⟩ | ⟨hw, -⟩ | ⟨hw, -⟩
    exacts [absurd hw hwr, absurd hw hbis, absurd hw hbic]
  · rw [port_withPc]
  · cases p <;> rfl
  · rw [port_returnFromHandler]

/-- An operation leaves the same flags under any masks (44_port_pin_and_edge_logic.md R163). -/
theorem ifg_exec_withMasks {i : Instr} {m0 m1 : Byte} {g : Bool} {l : LowPower} {s t t' : State}
    (h : exec i s = .next t) (h' : exec i (withMasks m0 m1 g l s) = .next t') (p : PortId) :
    (t'.port p).ifg = (t.port p).ifg := by
  cases i with
  | wr a k | bis a k | bic a k => exact ifg_writePath_withMasks h h' p
  | _ =>
    have hi := ifg_exec_of_not_write h' (by simp) p
    rw [hi, ifg_exec_of_not_write h (by simp), ifg_withMasks]

end Sys2Proof.Machine

namespace Sys2Proof.Proofs

open Sys2Proof.Machine Sys2Proof.Safety

/-- Settles O51: of the ways a step can leave a flag at 1, a latch needs an armed edge, and a software write
that finds the flag at 0 needs a 1 in its operand. -/
theorem flagsAreSetOnlyByArmedEdgesOrSoftware : Obligations.FlagsAreSetOnlyByArmedEdgesOrSoftware := by
  intro s t p b h h0 h1
  rcases step_flag_cases h p b with hlatch | ⟨-, ⟨d, i, hc, hdec, a, k, ha, hi⟩ | ⟨hmay, hies, -⟩⟩ |
    ⟨hclear, -⟩
  · rw [FlagLatched, h0, h1, Bool.false_or] at hlatch
    exact .inl (latches_iff.mp hlatch.symm)
  · rw [h0, h1] at hi
    rcases hi with ⟨hi, hk⟩ | ⟨hi, hk⟩ | ⟨-, hk⟩
    · exact .inr (.inl ⟨d, a, k, i, hc, hdec, ha, .inl hi, hk.symm⟩)
    · exact .inr (.inl ⟨d, a, k, i, hc, hdec, ha, .inr hi, by simpa using hk.symm⟩)
    · simp at hk
  · exact .inr (.inr ⟨hmay, hies⟩)
  · cases h1.symm.trans hclear

/-- Settles O32: where a level changes, a flag can only have been latched, since the other ways to change one
move no level. -/
theorem flagWritesAndLevelChangesNeverMeet : Obligations.FlagWritesAndLevelChangesNeverMeet := by
  intro s t h hexpiry hpower
  refine ⟨fun d a k p i hc hdec ha hi => step_sameLevels_of_writes_portIfg h hc hdec ha hi, ?_⟩
  rintro ⟨q, c, hne⟩ p b
  rcases step_flag_cases h p b with hlatch | ⟨hlevels, -⟩ | ⟨-, d, hc | hc⟩
  · exact hlatch
  · exact absurd (hlevels q c) hne
  · exact absurd hc (hexpiry d)
  · exact absurd hc (hpower d)

/-- Settles O49. The choice is always enabled, and the pins of `dropChoice s` are those of `s`. -/
theorem environmentStepLatchesArmedEdges : Obligations.EnvironmentStepLatchesArmedEdges := by
  intro s cs hc
  have hstep : step s = .next (environmentStep cs (dropChoice s)) := by
    rw [step, hc, takeChoice_environment]
  have henv : ∀ p, (environmentStep cs (dropChoice s)).env p = (applyChanges cs s).env p := fun p => by
    rw [environmentStep, env_edgeEval, ((samePins_dropChoice s).applyChanges cs).env p]
  refine ⟨_, hstep, henv, environmentStep_frame cs (dropChoice s), fun p b => ?_⟩
  have hies : ((environmentStep cs (dropChoice s)).port p).ies = (s.port p).ies := by
    rw [environmentStep, port_edgeEval, port_applyChanges, port_dropChoice]
  have hflag : FlagLatched (dropChoice s) (environmentStep cs (dropChoice s)) p b :=
    flagLatched_edgeEval (by rw [port_applyChanges]) b
  rw [FlagLatched, port_dropChoice, (samePins_dropChoice s).latches_eq (.refl _)] at hflag
  rw [hflag, Bool.or_eq_true, latches_iff, hies]

/-- Settles O52: hardware only sets flags, and an Edge-Select draw sets one, so a flag that falls was
written or reset; `BIS` cannot write it to 0. -/
theorem flagsStayUntilSoftwareClearsThem : Obligations.FlagsStayUntilSoftwareClearsThem := by
  intro s t p b h h1 h0
  rcases step_flag_cases h p b with hlatch | ⟨-, ⟨d, i, hc, hdec, a, k, ha, hi⟩ | ⟨-, -, hset⟩⟩ |
    ⟨-, hreset⟩
  · rw [FlagLatched, h0, h1, Bool.true_or] at hlatch
    cases hlatch
  · rw [h0, h1] at hi
    rcases hi with ⟨rfl, hk⟩ | ⟨-, hk⟩ | ⟨rfl, hk⟩
    · exact .inl ⟨d, a, k, hc, ha, .inl ⟨hdec, hk.symm⟩⟩
    · simp at hk
    · exact .inl ⟨d, a, k, hc, ha, .inr ⟨hdec, by simpa using hk.symm⟩⟩
  · cases h0.symm.trans hset
  · exact .inr hreset

/-- Settles O53: levels, roles and edges do not depend on the masks, and no more does what an operation
writes, but for a write of `IE`, which touches no flag. -/
theorem masksPlayNoPartInTheLatch : Obligations.MasksPlayNoPartInTheLatch := by
  rintro s s' cs m0 m1 g l rfl p
  exact ⟨ifg_environmentStep_withMasks cs m0 m1 g l s p, ifg_timerTick_withMasks m0 m1 g l s p,
    fun i t t' h h' => ifg_exec_withMasks h h' p⟩

/-- Settles O11. -/
theorem disabledChoiceIsTheEmptyEnvironmentStep :
    Obligations.DisabledChoiceIsTheEmptyEnvironmentStep := by
  intro c s h
  refine ⟨by simp [takeChoice, h], ?_⟩
  rw [takeChoice_environment, environmentStep_nil]

/-- Settles O43: the request is that the byte of flagged and enabled pins is not zero. -/
theorem requestIsAFlaggedAndEnabledPin : Obligations.RequestIsAFlaggedAndEnabledPin :=
  fun _ _ => requests_iff

/-- Settles O47, from the role's three rows and the level's case in each role. -/
theorem pinLevelsAreAsTheTableSays : Obligations.PinLevelsAreAsTheTableSays := by
  intro s p b
  have hinput : isDigitalInput s p b = true ↔ (s.port p).sel2.getLsbD b = false ∧
      (s.port p).sel.getLsbD b = false ∧ (s.port p).dir.getLsbD b = false := by
    rw [isDigitalInput_iff, role_eq_gpio_iff, and_assoc]
  refine ⟨role_eq_gpio_iff, role_eq_timer_iff, role_eq_unspec_iff, hinput, level_of_timer,
    level_of_output, fun hin => ?_, level_of_unspec⟩
  rw [level_of_isDigitalInput hin]
  refine ⟨inputLevel_of_high, inputLevel_of_low, fun hz hren => ?pulled, fun hz hren => ?floating⟩
  case pulled => rw [inputLevel_of_undriven hz, if_pos hren]
  case floating => rw [inputLevel_of_undriven hz, if_neg (Bool.eq_false_iff.mp hren)]

/-- Settles O48: the PWM pin in the role of the timer, and as a plain output. -/
theorem pwmPinCarriesTimerOrOutput : Obligations.PwmPinCarriesTimerOrOutput := by
  rintro s r b rfl rfl
  exact ⟨fun hsel hsel2 => level_of_timer (role_eq_timer_iff.mpr ⟨hsel2, hsel, rfl, rfl⟩),
    fun hsel hsel2 hdir => level_of_output (role_eq_gpio_iff.mpr ⟨hsel2, hsel⟩) hdir⟩

/-- Settles O50. The list is a fold, so it takes its changes from the front and ends with the last. -/
theorem environmentChangeMovesOnePin : Obligations.EnvironmentChangeMovesOnePin := by
  refine ⟨fun s p q b c d v => ?_, fun _ => rfl, fun s cs c => ⟨rfl, ?_⟩⟩
  · rw [env_applyChange_ext, env_applyChange_flt]
    by_cases hq : q = p
    · subst hq
      simp [get_set_pin]
    · simp [hq]
  · rw [applyChanges, List.foldl_concat]
    rfl

/-- Settles O57, role by role. -/
theorem blockDriveIsAsTheTableSays : Obligations.BlockDriveIsAsTheTableSays := by
  intro s p b
  refine ⟨fun hrole hdir => ?output, blockDrive_of_timer, fun hrole hdir => ?input,
    blockDrive_of_unspec, fun v => level_of_blockDrive⟩
  case output => rw [blockDrive_of_gpio hrole, if_pos hdir]
  case input => rw [blockDrive_of_gpio hrole, if_neg (Bool.eq_false_iff.mp hdir)]

end Sys2Proof.Proofs
end

section
/-! The exceptions' own statements (spec/60_exceptions.md): faults, the acceptance of an interrupt, the
handler context, the wait, and the watchdog's expiry. -/

namespace Sys2Proof.Machine

/-! ### Where a choice is enabled -/

/-- An enabled choice is performed (70_reset_and_hazards.md R213). -/
theorem takeChoice_of_enabled {c : Choice} {s : State} (h : enabled c s = true) :
    takeChoice c s = perform c s :=
  if_pos h

/-- When an operation is enabled (41_control_ops.md R110). -/
theorem enabled_operation_iff {d : Byte} {s : State} :
    enabled (.operation d) s = true ↔ s.fault = none ∧ s.lpm = .active := by
  simp [enabled, operationEnabled]

/-- When the acceptance of a port is enabled (60_exceptions.md R177). -/
theorem enabled_acceptance_iff {p : PortId} {s : State} :
    enabled (.acceptance p) s = true ↔ s.fault = none ∧ s.gie = true ∧ requests s p = true := by
  simp [enabled, acceptanceEnabled, and_assoc]

/-- When the watchdog's expiry is enabled (60_exceptions.md R190). -/
theorem enabled_watchdogExpiry_iff {d : ResetDraws} {s : State} :
    enabled (.watchdogExpiry d) s = true ↔ s.wdt.getLsbD 7 = false ∧ s.wdtGrace = false := by
  simp [enabled, expiryEnabled, watchdogHeld]

/-! ### Faulting operations -/

/-- `SLEEP` in the handler faults, at the last address too: the check of the context comes first
(41_control_ops.md R113). -/
theorem execSleep_of_inh {s : State} (hinh : s.inh = true) :
    execSleep s = .next (withFault (.sleepInHandler s.pc) s) := by
  simp [execSleep, hinh, raise_eq]

/-- `RETI` outside the handler faults (41_control_ops.md R114). -/
theorem execReti_of_not_inh {s : State} (hinh : s.inh = false) :
    execReti s = .next (withFault (.retiOutsideHandler s.pc) s) := by
  simp [execReti, hinh, raise_eq]

/-- An operation either raises a fault and does nothing else, or leaves `FAULT` (60_exceptions.md R170). -/
theorem exec_fault_cases {i : Instr} {s t : State} (h : exec i s = .next t) :
    (∃ e, t = withFault e s) ∨ t.fault = s.fault := by
  rcases exec_cases h with hfault | ⟨r, new, -, -, -, -, rfl, -⟩ | ⟨x, -, rfl, -⟩ |
    ⟨-, -, -, rfl⟩ | ⟨-, -, rfl⟩
  · exact .inl hfault
  · exact .inr (commitWrite_fault r new s)
  · exact .inr (withPc_fault _ s)
  · exact .inr rfl
  · exact .inr (returnFromHandler_fault s)

/-! ### Acceptance and return -/

/-- Acceptance with a vector (60_exceptions.md R178). -/
theorem acceptInterrupt_of_vec {p : PortId} {v : ProgAddr} {s : State} (h : s.params.vec p = some v) :
    acceptInterrupt p s =
      { s with saved := ⟨s.pc, s.gie, s.lpm⟩, gie := false, lpm := .active, inh := true, pc := v } := by
  simp only [acceptInterrupt, h]

/-- Acceptance without a vector (60_exceptions.md R179). -/
theorem acceptInterrupt_of_no_vec {p : PortId} {s : State} (h : s.params.vec p = none) :
    acceptInterrupt p s = withFault (.noVector p) s := by
  simp only [acceptInterrupt, h]

/-- An enabled acceptance (60_exceptions.md R177). -/
theorem takeChoice_acceptance {s : State} {p : PortId} (hf : s.fault = none) (hg : s.gie = true)
    (hr : requests s p = true) : takeChoice (.acceptance p) s = .next (acceptInterrupt p s) :=
  takeChoice_of_enabled (enabled_acceptance_iff.mpr ⟨hf, hg, hr⟩)

/-- Where the acceptance of a port is next and enabled, it is the step (70_reset_and_hazards.md R213). -/
theorem step_of_nextChoice_acceptance {s : State} {p : PortId} (hc : nextChoice s = .acceptance p)
    (hf : s.fault = none) (hg : s.gie = true) (hr : requests s p = true) :
    step s = .next (acceptInterrupt p (dropChoice s)) := by
  have hr' : requests (dropChoice s) p = true := by rwa [requests, port_dropChoice]
  rw [step, hc]
  exact takeChoice_acceptance hf hg hr'

/-- An enabled operation that is a `RETI` in the handler (41_control_ops.md R110, R114). -/
theorem takeChoice_operation_of_reti {s : State} (d : Byte) (hdec : decode (fetch s) = .ok .reti)
    (hinh : s.inh = true) (hf : s.fault = none) (hl : s.lpm = .active) :
    takeChoice (.operation d) s =
      .next { returnFromHandler (withIesDraw d s) with wdtGrace := false } := by
  have hdec' : decode (fetch (withIesDraw d s)) = .ok .reti := hdec
  have hret : exec .reti (withIesDraw d s) = .next (returnFromHandler (withIesDraw d s)) :=
    execReti_of_inh hinh
  rw [takeChoice_of_enabled (enabled_operation_iff.mpr ⟨hf, hl⟩), perform, operationStep, hdec']
  simp [hret, finish, completeOperation, hf]

/-! ### Entering and leaving the handler context -/

/-- An operation leaves `INH` and `SAVED`, but for `RETI`, which leaves the handler (60_exceptions.md
R180). -/
theorem exec_handler_cases {i : Instr} {s t : State} (h : exec i s = .next t) :
    (t.inh = s.inh ∧ t.saved = s.saved) ∨ (i = .reti ∧ t.inh = false) := by
  rcases exec_cases h with ⟨e, rfl⟩ | ⟨r, new, -, -, -, -, rfl, -⟩ | ⟨x, -, rfl, -⟩ |
    ⟨-, -, -, rfl⟩ | ⟨hi, -, rfl⟩
  · exact .inl ⟨rfl, rfl⟩
  · exact .inl ⟨commitWrite_inh r new s, commitWrite_saved r new s⟩
  · exact .inl ⟨rfl, rfl⟩
  · exact .inl ⟨rfl, rfl⟩
  · exact .inr ⟨hi, rfl⟩

theorem operationStep_handler_cases {s t : State} (h : operationStep s = .next t) :
    (t.inh = s.inh ∧ t.saved = s.saved) ∨ (decode (fetch s) = .ok .reti ∧ t.inh = false) := by
  rcases operationStep_cases h with ⟨-, rfl⟩ | ⟨i, u, hi, hu, rfl⟩
  · exact .inl ⟨rfl, rfl⟩
  · rw [completeOperation_inh, completeOperation_saved]
    exact (exec_handler_cases hu).imp_right fun ⟨hreti, hinh⟩ => ⟨hreti ▸ hi, hinh⟩

/-- Everything a step can do to the handler context: keep `INH` and `SAVED`, accept an interrupt with `GIE`
at 1, or leave the handler by `RETI` or a reset (60_exceptions.md R177, R180). -/
theorem step_handler_cases {s t : State} (h : step s = .next t) :
    (t.inh = s.inh ∧ t.saved = s.saved) ∨
      (s.gie = true ∧ ∃ p, nextChoice s = .acceptance p) ∨
      (t.inh = false ∧ ((∃ d, nextChoice s = .operation d ∧ decode (fetch s) = .ok .reti) ∨
        ∃ d, nextChoice s = .watchdogExpiry d ∨ nextChoice s = .powerOnReset d)) := by
  rcases step_kinds h with rfl | ⟨d, hc, -, -, hop⟩ | ⟨p, hc, -, hgie, -, -⟩ | ⟨-, -, rfl⟩ |
    ⟨cs, -, rfl⟩ | ⟨d, hc, rfl⟩
  · exact .inl ⟨rfl, rfl⟩
  · exact (operationStep_handler_cases hop).imp_right
      fun ⟨hreti, hinh⟩ => .inr ⟨hinh, .inl ⟨d, hc, hreti⟩⟩
  · exact .inr (.inl ⟨hgie, p, hc⟩)
  · exact .inl ⟨rfl, rfl⟩
  · exact .inl ⟨environmentStep_inh cs _, environmentStep_saved cs _⟩
  · exact .inr (.inr ⟨rfl, .inr ⟨d, hc⟩⟩)

/-! ### What does not disable an acceptance -/

/-- The environment withdraws no request: hardware only sets flags (44_port_pin_and_edge_logic.md
R164). -/
theorem requests_environmentStep {s : State} {p : PortId} (cs : List PinChange)
    (h : requests s p = true) : requests (environmentStep cs s) p = true := by
  obtain ⟨b, hflag, hmask⟩ := requests_iff.mp h
  refine requests_iff.mpr ⟨b, ?_, ?_⟩
  · rw [environmentStep, port_edgeEval_ifg, port_applyChanges, hflag, Bool.true_or]
  · rw [environmentStep, port_edgeEval, port_applyChanges, hmask]

theorem enabled_acceptance_environmentStep {s : State} {p : PortId} (cs : List PinChange)
    (h : enabled (.acceptance p) s = true) : enabled (.acceptance p) (environmentStep cs s) = true := by
  obtain ⟨hfault, hgie, hreq⟩ := enabled_acceptance_iff.mp h
  exact enabled_acceptance_iff.mpr ⟨(environmentStep_fault cs s).trans hfault,
    (environmentStep_gie cs s).trans hgie, requests_environmentStep cs hreq⟩

theorem enabled_acceptance_timerTick {s : State} {p : PortId}
    (h : enabled (.acceptance p) s = true) : enabled (.acceptance p) (timerTick s) = true := by
  obtain ⟨hfault, hgie, hreq⟩ := enabled_acceptance_iff.mp h
  exact enabled_acceptance_iff.mpr ⟨hfault, hgie, by rwa [requests, port_timerTick]⟩

end Sys2Proof.Machine

namespace Sys2Proof.Safety

open Sys2Proof.Machine

/-! ### A fault, once set -/

/-- `pc`, the modes, the saved context and `FAULT` of `t` are those of `s`. -/
def SequencerStands (s t : State) : Prop :=
  t.fault = s.fault ∧ t.pc = s.pc ∧ t.gie = s.gie ∧ t.lpm = s.lpm ∧ t.inh = s.inh ∧ t.saved = s.saved

/-- In a faulted machine neither the sequencer nor acceptance has a step, so the sequencer stands until a
reset (60_exceptions.md R170). -/
theorem step_of_fault {s t : State} (h : step s = .next t) (hf : s.fault ≠ none) :
    SequencerStands s t ∨
      (t.fault = none ∧ ∃ d, nextChoice s = .watchdogExpiry d ∨ nextChoice s = .powerOnReset d) := by
  rcases step_kinds h with rfl | ⟨-, -, hnone, -⟩ | ⟨-, -, hnone, -⟩ | ⟨-, -, rfl⟩ |
    ⟨cs, -, rfl⟩ | ⟨d, hc, rfl⟩
  · exact .inl ⟨rfl, rfl, rfl, rfl, rfl, rfl⟩
  · exact absurd hnone hf
  · exact absurd hnone hf
  · exact .inl ⟨rfl, rfl, rfl, rfl, rfl, rfl⟩
  · exact .inl ⟨environmentStep_fault cs _, environmentStep_pc cs _, environmentStep_gie cs _,
      environmentStep_lpm cs _, environmentStep_inh cs _, environmentStep_saved cs _⟩
  · exact .inr ⟨rfl, d, hc⟩

/-! ### Runs -/

/-- A list of choices begins with the step of its first. -/
theorem takeAll_cons_of_next {c : Choice} {s t : State} (cs : List Choice)
    (h : takeChoice c (useTicket s) = .next t) : takeAll (c :: cs) s = takeAll cs t := by
  rw [takeAll, h]

/-- A step of a run is a step of the machine whose agenda the choice heads. -/
theorem IsRun.step {choices : Nat → Choice} {run : Nat → State} (h : IsRun choices run) (n : Nat) :
    Machine.step { run n with agenda := choices n :: (run n).agenda } = .next (run (n + 1)) :=
  step_of_perform (h.enabled n) (h.next n)

theorem IsRun.modeInv {choices : Nat → Choice} {run : Nat → State} (h : IsRun choices run) (n : Nat) :
    ModeInv (run n) := by
  induction n with
  | zero =>
    obtain ⟨⟨d, hd⟩, -⟩ := h.first
    exact hd ▸ modeInv_resetStep d (run 0)
  | succ n ih =>
    have hagenda : ModeInv { run n with agenda := choices n :: (run n).agenda } := ih
    exact modeInv_step hagenda (h.step n)

/-- An enabled acceptance stays enabled until some port is accepted or a reset comes: the machine waits, so
no operation can withdraw the request (60_exceptions.md R177, R187). -/
theorem enabled_acceptance_of_perform {c : Choice} {p : PortId} {s t : State} (hs : ModeInv s)
    (hp : enabled (.acceptance p) s = true) (hc : enabled c s = true)
    (h : perform c (useTicket s) = .next t) :
    enabled (.acceptance p) t = true ∨ (∃ q, c = .acceptance q) ∨
      ∃ d, c = .watchdogExpiry d ∨ c = .powerOnReset d := by
  have hp' : enabled (.acceptance p) (useTicket s) = true := (enabled_useTicket _ s).trans hp
  cases c with
  | operation d =>
    obtain ⟨-, hgie, -⟩ := enabled_acceptance_iff.mp hp
    obtain ⟨-, hactive⟩ := enabled_operation_iff.mp hc
    cases hactive.symm.trans (hs.1.mp hgie)
  | acceptance q => exact .inr (.inl ⟨q, rfl⟩)
  | tick => exact .inl (Host.Outcome.next.inj h ▸ enabled_acceptance_timerTick hp')
  | environment cs => exact .inl (Host.Outcome.next.inj h ▸ enabled_acceptance_environmentStep cs hp')
  | watchdogExpiry d => exact .inr (.inr ⟨d, .inl rfl⟩)
  | powerOnReset d => exact .inr (.inr ⟨d, .inr rfl⟩)

end Sys2Proof.Safety

namespace Sys2Proof.Proofs

open Sys2Proof.Machine Sys2Proof.Safety

/-- Settles O17: in the wait the sequencer has no step, and acceptance without a vector leaves the mode. -/
theorem onlyAcceptanceOrResetEndsTheWait : Obligations.OnlyAcceptanceOrResetEndsTheWait := by
  intro s t h hwait hactive
  have hmode : t.lpm ≠ s.lpm := by
    rw [hwait, hactive]
    decide
  rcases step_kinds h with rfl | ⟨-, -, -, hrun, -⟩ | ⟨p, hc, hf, hgie, hreq, rfl⟩ | ⟨-, -, rfl⟩ |
    ⟨cs, -, rfl⟩ | ⟨d, hc, -⟩
  · exact absurd (dropChoice_lpm s) hmode
  · cases hwait.symm.trans hrun
  · rcases acceptInterrupt_cases p (dropChoice s) with ⟨-, hnone⟩ | ⟨v, hv, hsome⟩
    · exact absurd (by rw [hnone, withFault_lpm, dropChoice_lpm]) hmode
    · exact .inl ⟨p, v, hc, hf, hgie, bne_iff_ne.mp hreq, hv, by rw [hsome]⟩
  · exact absurd (timerTick_lpm _) hmode
  · exact absurd (environmentStep_lpm cs _) hmode
  · exact .inr ⟨d, hc⟩

/-- Settles O19. The handler runs with `GIE` at 0, so no acceptance comes inside it. -/
theorem handlerContextIsNeverNested : Obligations.HandlerContextIsNeverNested := by
  rintro s t ⟨hmode, -⟩ h
  have hmasked : ∀ {u : State}, ModeInv u → u.inh = true → u.gie = false := fun hu hinh =>
    (hu.2 hinh).1
  rcases step_handler_cases h with ⟨hinh, hsaved⟩ | ⟨hgie, hacc⟩ | ⟨hout, hcause⟩
  · exact ⟨fun h0 h1 => by simp [hinh, h0] at h1, fun h1 h0 => by simp [hinh, h1] at h0,
      fun _ h1 => ⟨hmasked (modeInv_step hmode h) h1, hsaved⟩⟩
  · have hs : s.inh ≠ true := fun h1 => by simp [hmasked hmode h1] at hgie
    exact ⟨fun _ _ => hacc, fun h1 => absurd h1 hs, fun h1 => absurd h1 hs⟩
  · have ht : t.inh ≠ true := by simp [hout]
    exact ⟨fun _ h1 => absurd h1 ht, fun _ _ => hcause, fun _ h1 => absurd h1 ht⟩

/-- Settles O22. -/
theorem faultIsClearedOnlyByReset : Obligations.FaultIsClearedOnlyByReset := by
  intro s t f h hf
  rw [← hf]
  exact step_of_fault h (by simp [hf])

/-- Settles O23: an operation that does not fault leaves `FAULT` at none. -/
theorem faultingOperationHasNoOtherEffect : Obligations.FaultingOperationHasNoOtherEffect := by
  intro i s t hs h ht
  rcases exec_fault_cases h with ⟨e, rfl⟩ | hkeep
  · rfl
  · exact absurd (hkeep.trans hs) ht

/-- Settles O42: acceptance saves the idle state, so what `RETI` restores is that state. -/
theorem acceptanceThenRetiComesBack : Obligations.AcceptanceThenRetiComesBack := by
  rintro s p v d ⟨hf, hlpm, hgie, hinh⟩ hreq hv hdec
  have hreq' : requests (useTicket s) p = true := by rwa [requests, port_useTicket]
  have hv' : (useTicket s).params.vec p = some v := hv
  refine ⟨_, ?run, ?idle, rfl⟩
  case idle => exact ⟨hf, hlpm, hgie, hinh⟩
  case run =>
    rw [takeAll_cons_of_next _ (takeChoice_acceptance hf hgie hreq'), acceptInterrupt_of_vec hv']
    refine Eq.trans (takeAll_cons_of_next [] (takeChoice_operation_of_reti d hdec rfl hf rfl)) ?_
    cases s
    subst hlpm hgie hinh
    rfl

/-- Settles O60. Where neither comes, the acceptance stays enabled for ever, and weak fairness for its port
takes it. -/
theorem enabledAcceptanceEventuallyHappens : Obligations.EnabledAcceptanceEventuallyHappens := by
  rintro choices run hrun ⟨-, hfair, -⟩ n p hp
  by_contra hnever
  have hstays : ∀ m, n ≤ m → enabled (.acceptance p) (run m) = true := by
    intro m hm
    induction m, hm using Nat.le_induction with
    | base => exact hp
    | succ m hm ih =>
      refine (enabled_acceptance_of_perform (hrun.modeInv m) ih (hrun.enabled m)
        (hrun.next m)).resolve_right fun hcause => ?_
      exact hnever ⟨m, hm, hcause⟩
  obtain ⟨m, hm, htaken⟩ := hfair p n fun m hm => ⟨.acceptance p, beq_self_eq_true _, hstays m hm⟩
  exact hnever ⟨m, hm, .inl ⟨p, beq_iff_eq.mp htaken⟩⟩

/-- Settles O40. -/
theorem contextOperationsInTheWrongContextFault :
    Obligations.ContextOperationsInTheWrongContextFault :=
  fun _ => ⟨execSleep_of_inh, execReti_of_not_inh⟩

/-- Settles O41: the enabled acceptance is the step. -/
theorem acceptanceEntersTheHandler : Obligations.AcceptanceEntersTheHandler := by
  intro s p hc hf hgie hreq
  rw [step_of_nextChoice_acceptance hc hf hgie (bne_iff_ne.mpr hreq)]
  exact ⟨fun v hv => congrArg _ (acceptInterrupt_of_vec hv),
    fun hv => congrArg _ (acceptInterrupt_of_no_vec hv)⟩

/-- Settles O56: both choices perform the reset step. -/
theorem watchdogExpiryIsAReset : Obligations.WatchdogExpiryIsAReset := by
  intro s d
  refine ⟨fun hhold hgrace => ?_, fun h => ?_⟩
  · have hpower : enabled (.powerOnReset d) s = true := rfl
    rw [takeChoice_of_enabled (enabled_watchdogExpiry_iff.mpr ⟨hhold, hgrace⟩),
      takeChoice_of_enabled hpower, perform, perform]
  · rw [← Bool.not_eq_true, enabled_watchdogExpiry_iff]
    rintro ⟨hhold, hgrace⟩
    rcases h with h | h
    · cases hhold.symm.trans h
    · cases hgrace.symm.trans h

end Sys2Proof.Proofs
end

section
/-! The reset's and the hazards' own statements (spec/70_reset_and_hazards.md): when each step is enabled,
the next state that every state has, interleavings, the invariant on runs, and the values a reset gives. -/

namespace Sys2Proof.Machine

open Host (Outcome)

/-! ### The choices after the next one play no part in its step -/

/-- The state with another agenda. -/
def withAgenda (a : List Choice) (s : State) : State :=
  { s with agenda := a }

@[simp] theorem port_withAgenda (a : List Choice) (s : State) (p : PortId) :
    (withAgenda a s).port p = s.port p := by
  cases p <;> rfl

@[simp] theorem env_withAgenda (a : List Choice) (s : State) (p : PortId) :
    (withAgenda a s).env p = s.env p := by
  cases p <;> rfl

theorem samePins_withAgenda (a : List Choice) (s : State) : SamePins s (withAgenda a s) :=
  .of_port_eq (port_withAgenda a s) (env_withAgenda a s) rfl rfl rfl rfl

theorem setPort_withAgenda (a : List Choice) (s : State) (p : PortId) (r : PortRegs) :
    (withAgenda a s).setPort p r = withAgenda a (s.setPort p r) := by
  cases p <;> rfl

theorem setEnv_withAgenda (a : List Choice) (s : State) (p : PortId) (e : PinEnv) :
    (withAgenda a s).setEnv p e = withAgenda a (s.setEnv p e) := by
  cases p <;> rfl

theorem setFlags_withAgenda (a : List Choice) (s : State) (p : PortId) (m : Byte) :
    setFlags (withAgenda a s) p m = withAgenda a (setFlags s p m) := by
  rw [setFlags, setFlags, port_withAgenda, setPort_withAgenda]

theorem edgeEval_withAgenda (a : List Choice) (s0 s1 : State) :
    edgeEval (withAgenda a s0) (withAgenda a s1) = withAgenda a (edgeEval s0 s1) := by
  simp only [edgeEval, setFlags_withAgenda,
    (samePins_withAgenda a s0).latchedFlags_eq (samePins_withAgenda a s1)]

theorem readReg_withAgenda (a : List Choice) (s : State) (r : Reg) :
    readReg (withAgenda a s) r = readReg s r := by
  cases r with
  | portIn p => simp only [readReg, inputByte, funext ((samePins_withAgenda a s).level_eq p)]
  | portOut p | portDir p | portRen p | portIes p | portSel p | portSel2 p | portIe p | portIfg p =>
    simp only [readReg, port_withAgenda]
  | _ => rfl

theorem writeReg_withAgenda (a : List Choice) (s : State) (r : Reg) (v : Half) :
    writeReg (withAgenda a s) r v = withAgenda a (writeReg s r v) := by
  cases r with
  | portOut p | portDir p | portRen p | portIes p | portSel p | portSel2 p | portIe p | portIfg p =>
    simp only [writeReg, port_withAgenda, setPort_withAgenda]
  | _ => rfl

theorem iesSideEffect_withAgenda (a : List Choice) (r : Reg) (old new : Half) (s : State) :
    iesSideEffect r old new (withAgenda a s) = withAgenda a (iesSideEffect r old new s) := by
  cases r with
  | portIes p =>
    simp only [iesSideEffect, setFlags_withAgenda, apply_ite (withAgenda a)]
    rfl
  | _ => rfl

theorem commitWrite_withAgenda (a : List Choice) (r : Reg) (new : Half) (s : State) :
    commitWrite r new (withAgenda a s) = withAgenda a (commitWrite r new s) := by
  simp only [commitWrite, readReg_withAgenda, writeReg_withAgenda, edgeEval_withAgenda,
    iesSideEffect_withAgenda]
  rfl

theorem acceptInterrupt_withAgenda (a : List Choice) (p : PortId) (s : State) :
    acceptInterrupt p (withAgenda a s) = withAgenda a (acceptInterrupt p s) := by
  cases hv : s.params.vec p with
  | none =>
    rw [acceptInterrupt_of_no_vec hv, acceptInterrupt_of_no_vec (s := withAgenda a s) hv]
    rfl
  | some v =>
    rw [acceptInterrupt_of_vec hv, acceptInterrupt_of_vec (s := withAgenda a s) hv]
    rfl

theorem timerTick_withAgenda (a : List Choice) (s : State) :
    timerTick (withAgenda a s) = withAgenda a (timerTick s) := by
  rw [timerTick_eq, timerTick_eq]
  rfl

theorem applyChange_withAgenda (a : List Choice) (s : State) (c : PinChange) :
    applyChange (withAgenda a s) c = withAgenda a (applyChange s c) := by
  cases c <;> simp only [applyChange, env_withAgenda, setEnv_withAgenda]

theorem applyChanges_withAgenda (a : List Choice) (cs : List PinChange) (s : State) :
    applyChanges cs (withAgenda a s) = withAgenda a (applyChanges cs s) := by
  induction cs generalizing s with
  | nil => rfl
  | cons c cs ih => exact (congrArg (applyChanges cs) (applyChange_withAgenda a s c)).trans (ih _)

theorem environmentStep_withAgenda (a : List Choice) (cs : List PinChange) (s : State) :
    environmentStep cs (withAgenda a s) = withAgenda a (environmentStep cs s) := by
  rw [environmentStep, environmentStep, applyChanges_withAgenda, edgeEval_withAgenda]

/-! ### Every arm answers with a next state, the same under any agenda -/

/-- `f` gives `s` a next state, and under the agenda `a` the same one but for the agenda. -/
def AnswersUnderAgenda (a : List Choice) (f : State → Outcome State Fault Refusal) (s : State) : Prop :=
  ∃ t, f s = .next t ∧ f (withAgenda a s) = .next (withAgenda a t)

theorem writePath_answers (a : List Choice) (reg : RegAddr) (k : Half) (f : Half → Half → Half)
    (s : State) : AnswersUnderAgenda a (writePath reg k f) s := by
  cases hr : regAt reg with
  | none => exact ⟨_, writePath_of_unmapped k f s hr, writePath_of_unmapped k f (withAgenda a s) hr⟩
  | some r =>
    rcases writePath_cases_of_agree k f hr (readReg_withAgenda a s r) rfl with
      ⟨e, hs, hs'⟩ | ⟨hs, hs'⟩
    · exact ⟨_, hs, hs'⟩
    · exact ⟨_, hs, hs'.trans (congrArg _ (commitWrite_withAgenda a r _ s))⟩

theorem jumpTo_answers (a : List Choice) (x : Int) (s : State) :
    AnswersUnderAgenda a (jumpTo x) s := by
  unfold AnswersUnderAgenda jumpTo
  split
  · exact ⟨_, rfl, rfl⟩
  · exact ⟨_, rfl, rfl⟩

theorem execBbs_answers (a : List Choice) (reg : RegAddr) (bit : Nat) (off : Int) (s : State) :
    AnswersUnderAgenda a (execBbs reg bit off) s := by
  cases hr : regAt reg with
  | none =>
    exact ⟨_, execBbs_of_unmapped bit off s hr, execBbs_of_unmapped bit off (withAgenda a s) hr⟩
  | some r =>
    rcases Nat.lt_or_ge bit r.width with hbit | hbit
    · rw [AnswersUnderAgenda, execBbs_of_lt_width off s hr hbit, execBbs_of_lt_width off _ hr hbit,
        readReg_withAgenda]
      exact jumpTo_answers a _ s
    · exact ⟨_, execBbs_of_width_le off s hr hbit, execBbs_of_width_le off (withAgenda a s) hr hbit⟩

theorem execSleep_answers (a : List Choice) (s : State) : AnswersUnderAgenda a execSleep s := by
  cases hinh : s.inh with
  | true => exact ⟨_, execSleep_of_inh hinh, execSleep_of_inh (s := withAgenda a s) hinh⟩
  | false =>
    by_cases hpc : s.pc = 0x3F
    · exact ⟨_, execSleep_of_lastAddress hinh hpc,
        execSleep_of_lastAddress (s := withAgenda a s) hinh hpc⟩
    · exact ⟨_, execSleep_of_checks hinh hpc, execSleep_of_checks (s := withAgenda a s) hinh hpc⟩

theorem execReti_answers (a : List Choice) (s : State) : AnswersUnderAgenda a execReti s := by
  cases hinh : s.inh with
  | true => exact ⟨_, execReti_of_inh hinh, execReti_of_inh (s := withAgenda a s) hinh⟩
  | false => exact ⟨_, execReti_of_not_inh hinh, execReti_of_not_inh (s := withAgenda a s) hinh⟩

theorem exec_answers (a : List Choice) (i : Instr) (s : State) : AnswersUnderAgenda a (exec i) s := by
  cases i with
  | wr reg k => exact writePath_answers a reg k writeValue s
  | bis reg k => exact writePath_answers a reg k setBits s
  | bic reg k => exact writePath_answers a reg k clearBits s
  | bbs reg bit off => exact execBbs_answers a reg bit off s
  | br off => exact jumpTo_answers a (branchTarget s off) s
  | sleep => exact execSleep_answers a s
  | reti => exact execReti_answers a s

theorem completeOperation_withAgenda (a : List Choice) (s : State) :
    completeOperation (withAgenda a s) = withAgenda a (completeOperation s) := by
  simp only [completeOperation, apply_ite (withAgenda a)]
  rfl

theorem operationStep_answers (a : List Choice) (s : State) :
    AnswersUnderAgenda a operationStep s := by
  cases hi : decode (fetch s) with
  | error e =>
    exact ⟨_, operationStep_of_illegal hi, operationStep_of_illegal (s := withAgenda a s) hi⟩
  | ok i =>
    obtain ⟨t, ht, ht'⟩ := exec_answers a i s
    have hi' : decode (fetch (withAgenda a s)) = .ok i := hi
    refine ⟨completeOperation t, ?_, ?_⟩
    · rw [operationStep, hi]
      exact congrArg finish ht
    · rw [operationStep, hi', ← completeOperation_withAgenda]
      exact congrArg finish ht'

theorem perform_answers (a : List Choice) (c : Choice) (s : State) :
    AnswersUnderAgenda a (perform c) s := by
  cases c with
  | operation d => exact operationStep_answers a (withIesDraw d s)
  | acceptance p => exact ⟨_, rfl, congrArg _ (acceptInterrupt_withAgenda a p s)⟩
  | tick => exact ⟨_, rfl, congrArg _ (timerTick_withAgenda a s)⟩
  | environment cs => exact ⟨_, rfl, congrArg _ (environmentStep_withAgenda a cs s)⟩
  | watchdogExpiry d => exact ⟨_, rfl, rfl⟩
  | powerOnReset d => exact ⟨_, rfl, rfl⟩

theorem enabled_withAgenda (a : List Choice) (c : Choice) (s : State) :
    enabled c (withAgenda a s) = enabled c s := by
  cases c with
  | acceptance p =>
    simp only [enabled, acceptanceEnabled, requests, port_withAgenda]
    rfl
  | _ => rfl

/-- The step of a choice is a next state, in which the agenda still to come plays no part. -/
theorem takeChoice_answers (a : List Choice) (c : Choice) (s : State) :
    AnswersUnderAgenda a (takeChoice c) s := by
  simp only [AnswersUnderAgenda, takeChoice, enabled_withAgenda]
  split
  · exact perform_answers a c s
  · exact ⟨s, rfl, rfl⟩

/-- A choice leaves the agenda: under the agenda that `s` holds already, its next state is the one it has. -/
theorem takeChoice_agenda {c : Choice} {s t : State} (h : takeChoice c s = .next t) :
    t.agenda = s.agenda := by
  obtain ⟨u, hu, hu'⟩ := takeChoice_answers s.agenda c s
  have hsame : withAgenda s.agenda s = s := rfl
  rw [hsame] at hu'
  have ht : t = withAgenda s.agenda u := Outcome.next.inj (h.symm.trans hu')
  rw [ht]
  rfl

/-- A choice at the head of the agenda is the machine's step, and leaves the rest of the agenda. -/
theorem step_of_takeChoice {c : Choice} (cs rest : List Choice) {s t : State}
    (hagenda : s.agenda = c :: (cs ++ rest))
    (h : takeChoice c (useTicket (withAgenda rest s)) = .next t) :
    step s = .next (withAgenda (cs ++ rest) t) := by
  obtain ⟨u, hu, hu'⟩ := takeChoice_answers (cs ++ rest) c (useTicket (withAgenda rest s))
  cases h.symm.trans hu
  have hnext : nextChoice s = c := by rw [nextChoice, hagenda]
  have hdrop : dropChoice s = withAgenda (cs ++ rest) (useTicket (withAgenda rest s)) := by
    rw [dropChoice, hagenda]
    rfl
  rw [step, hnext, hdrop, hu']

/-! ### Where a tick is enabled, and where a reset is next -/

/-- When a tick is enabled (43_timer_unit.md R142). -/
theorem enabled_tick_iff {s : State} : enabled .tick s = true ↔ s.tctl = 0x0210 :=
  beq_iff_eq

/-- A power-on reset is enabled in every state, so where it is next it is the step
(70_reset_and_hazards.md R196, R213). -/
theorem step_of_nextChoice_powerOnReset {s : State} {d : ResetDraws}
    (hc : nextChoice s = .powerOnReset d) : step s = .next (resetStep d (dropChoice s)) := by
  rw [step, hc]
  exact takeChoice_of_enabled rfl

end Sys2Proof.Machine

namespace Sys2Proof.Safety

open Sys2Proof.Machine

/-! ### Interleavings -/

/-- A run begins with its first step. -/
theorem run_succ_of_next {M : Host.Core} {s t : M.State} (k : Nat) (h : M.step s = .next t) :
    M.run (k + 1) s = M.run k t := by
  rw [Host.Core.run, h]

/-- The machine takes the choices at the head of its agenda in their order (70_reset_and_hazards.md
R214). -/
theorem run_of_takeAll {cs rest : List Choice} {s t : State} (hagenda : s.agenda = cs ++ rest)
    (h : takeAll cs (withAgenda rest s) = .next t) :
    Host.Core.run Sys2Proof.core cs.length s = .next t := by
  induction cs generalizing s with
  | nil =>
    have hsame : withAgenda rest s = s := by rw [withAgenda, ← List.nil_append rest, ← hagenda]
    rwa [hsame] at h
  | cons c cs ih =>
    obtain ⟨u, hu, -⟩ := takeChoice_answers rest c (useTicket (withAgenda rest s))
    have hrest : withAgenda rest u = u :=
      congrArg (withAgenda · u) (takeChoice_agenda hu).symm
    have hstep : Sys2Proof.core.step s = .next (withAgenda (cs ++ rest) u) :=
      step_of_takeChoice cs rest hagenda hu
    rw [takeAll_cons_of_next cs hu, ← hrest] at h
    exact (run_succ_of_next cs.length hstep).trans (ih rfl h)

/-! ### The invariant on runs -/

theorem IsResetState.blockInv {s : State} (h : IsResetState s) : BlockInv s := by
  obtain ⟨⟨d, hd⟩, hrom, hparams⟩ := h
  exact ⟨hd ▸ modeInv_resetStep d s, hd ▸ legalInv_resetStep d s, hrom, hparams⟩

/-! ### The pins after a reset -/

/-- In a reset state every pin is a digital input (70_reset_and_hazards.md R196). -/
theorem ResetTable.isDigitalInput {s : State} (h : ResetTable s) (p : PortId) (b : Pin) :
    isDigitalInput s p b = true := by
  obtain ⟨hdir, -, hsel, hsel2, -, -⟩ := h.port p
  have hrole : role s p b = .gpio := role_eq_gpio_iff.mpr ⟨by simp [hsel2], by simp [hsel]⟩
  exact isDigitalInput_iff.mpr ⟨hrole, by simp [hdir]⟩

/-- In a reset state no pull resistor is on, so an undriven pin floats (70_reset_and_hazards.md R196). -/
theorem ResetTable.inputLevel_of_undriven {s : State} (h : ResetTable s) {p : PortId} {b : Pin}
    (hz : (s.env p).ext.get b = .Z) : inputLevel s p b = (s.env p).flt.get b := by
  obtain ⟨-, hren, -⟩ := h.port p
  rw [Machine.inputLevel_of_undriven hz, hren, if_neg (by simp)]

end Sys2Proof.Safety

namespace Sys2Proof.Proofs

open Sys2Proof.Machine Sys2Proof.Safety

/-- Settles O9: every arm answers with a next state. -/
theorem everyStateHasANextState : Obligations.EveryStateHasANextState := by
  intro s
  obtain ⟨t, ht, -⟩ := takeChoice_answers [] (nextChoice s) (dropChoice s)
  exact ⟨t, ht⟩

/-- Settles O12, by induction on the list of choices. -/
theorem everyInterleavingIsARun : Obligations.EveryInterleavingIsARun :=
  fun _ _ _ _ => run_of_takeAll

/-- Settles O59, by induction on the run: reset states meet the invariant, and a step of a run is a step of
the machine whose agenda the choice heads. -/
theorem everyRunKeepsTheInvariant : Obligations.EveryRunKeepsTheInvariant := by
  intro choices run hrun n
  induction n with
  | zero => exact hrun.first.blockInv
  | succ n ih =>
    have hagenda : BlockInv { run n with agenda := choices n :: (run n).agenda } := ih
    exact everyStepKeepsTheInvariant _ _ hagenda (hrun.step n)

/-- Settles O10: the request is that the byte of flagged and enabled pins is not zero. -/
theorem stepsAreEnabledAsTheTableSays : Obligations.StepsAreEnabledAsTheTableSays := by
  intro s d p cs r
  refine ⟨enabled_operation_iff, ?acceptance, enabled_tick_iff, rfl, enabled_watchdogExpiry_iff, rfl⟩
  case acceptance => rw [enabled_acceptance_iff, requests, bne_iff_ne]

/-- Settles O54: the reset step ends in a reset state, in which the pins are inputs without a pull. -/
theorem resetGivesTheResetValues : Obligations.ResetGivesTheResetValues := by
  intro s d hc
  have htable : ResetTable (resetStep d (dropChoice s)) := resetTable_resetStep d (dropChoice s)
  refine ⟨_, step_of_nextChoice_powerOnReset hc, rfl, rfl, htable.tcnt, htable.tperiod, htable.tcompare,
    htable.tctl, htable.tcctl, rfl, rfl, htable.wdt, htable.wdtGrace, htable.gie, htable.lpm, htable.pc,
    htable.inh, htable.fault, rfl, rfl, rfl, rfl, fun p b => ⟨htable.isDigitalInput p b, ?level⟩⟩
  case level =>
    have henv : (resetStep d (dropChoice s)).env p = s.env p :=
      (env_resetStep d _ p).trans (env_dropChoice s p)
    rw [level_of_isDigitalInput (htable.isDigitalInput p b), ← henv]
    split
    case h_1 hhigh => exact inputLevel_of_high hhigh
    case h_2 hlow => exact inputLevel_of_low hlow
    case h_3 hz => exact htable.inputLevel_of_undriven hz

end Sys2Proof.Proofs
end

section
/-! The test vectors of the decoder (spec/95_test_vectors.md section 2.1), the sequencer's step on a word that
decodes (spec/41_control_ops.md R110), the model's own loader, and the invariant after a reset. -/

namespace Sys2Proof

/-- A word written out as the encoding of a well-formed operation decodes to it (30_encoding.md R91). -/
theorem decode_of_encode_eq {i : Instr} {w : OpWord} (hwf : i.wf = true) (hw : encode i = w) :
    decode w = .ok i :=
  hw ▸ Proofs.decodeOfEncodeIsTheOperation i hwf

end Sys2Proof

namespace Sys2Proof.Machine

/-! ### The step of a word that decodes -/

/-- A word that decodes to `i` runs the rule of `i`, then ends the operation (41_control_ops.md R110). -/
theorem operationStep_of_decode {s : State} {i : Instr} (h : decode (fetch s) = .ok i) :
    operationStep s = finish (exec i s) := by
  rw [operationStep, h]

/-- Where the sequencer's operation is next and enabled, the step runs the operation that the word at `pc`
decodes to (41_control_ops.md R110). -/
theorem step_of_decode {s : State} {d : Byte} {i : Instr} (hc : nextChoice s = .operation d)
    (hf : s.fault = none) (hl : s.lpm = .active) (hi : decode (fetch s) = .ok i) :
    step s = finish (exec i (withIesDraw d (dropChoice s))) := by
  rw [step_of_nextChoice_operation hc hf hl]
  exact operationStep_of_decode hi

/-- The end of an operation clears `WDT_GRACE` exactly where no fault stands (41_control_ops.md R110). -/
theorem completeOperation_eq_ite (s : State) :
    completeOperation s = if s.fault = none then { s with wdtGrace := false } else s := by
  simp only [completeOperation, Option.isNone_iff_eq_none]

/-! ### The model's own loader -/

/-- A load of a word that is not the blank one reads back, whether or not the store was in canonical form
(30_encoding.md R90). -/
theorem read_write_of_ne_unprogrammed (m : Memory) {a : Nat} {w : OpWord} (ha : a < storeSize)
    (hw : w ≠ unprogrammed) : Memory.read (Memory.write m a w) a = w := by
  rw [Memory.write, if_neg (Nat.not_le.mpr ha), if_neg hw, Memory.read_insert_same]

/-- The blank word is illegal, so a word that decodes is another one (30_encoding.md R90). -/
theorem ne_unprogrammed_of_decode {w : OpWord} {i : Instr} (h : decode w = .ok i) :
    w ≠ unprogrammed := by
  rintro rfl
  cases h

/-- A loaded word that decodes is the one fetched next, whatever the store held. -/
theorem fetch_withFetchWord {w : Nat} {i : Instr} (s : State) (hw : w < 2 ^ 32)
    (hi : decode (BitVec.ofNat 32 w) = .ok i) :
    fetch (s.withFetchWord 32 w) = BitVec.ofNat 32 w := by
  rw [fetch, State.withFetchWord, Nat.mod_eq_of_lt hw]
  exact read_write_of_ne_unprogrammed s.rom s.pc.isLt (ne_unprogrammed_of_decode hi)

/-- The state in which the step after `withFetchWord` executes: the loader's choice is used up again. -/
theorem dropChoice_withFetchWord (s : State) {w : Nat} (hw : w < 2 ^ 32) :
    withIesDraw s.iesDraw (dropChoice (s.withFetchWord 32 w)) =
      { s with
        rom := Memory.write s.rom s.pc.toNat (BitVec.ofNat 32 w)
        lpm := .active
        fault := none
        ticket := s.ticket + 1 } := by
  rw [State.withFetchWord, Nat.mod_eq_of_lt hw]
  rfl

end Sys2Proof.Machine

namespace Sys2Proof.Safety

open Sys2Proof.Machine

/-- The reset step ends in a reset state: a second one with the same draws changes nothing. -/
theorem isResetState_resetStep {s : State} (d : ResetDraws) (hrom : Memory.wf s.rom = true)
    (hparams : s.params.wf = true) : IsResetState (resetStep d s) :=
  ⟨⟨d, rfl⟩, hrom, hparams⟩

end Sys2Proof.Safety

namespace Sys2Proof.Proofs

open Sys2Proof.Machine Sys2Proof.Safety

/-- Settles O5: the seven legal words are the encodings of their operations; of the two illegal ones, the
first has no operation's opcode and the second a bit set in the middle byte of `BBS`. -/
theorem knownWordsDecode : Obligations.KnownWordsDecode := by
  refine ⟨?wr, ?bis, ?bic, ?bbs, ?br, ?sleep, ?reti, ?opcode, ?zero⟩
  case opcode => rfl
  case zero => rfl
  all_goals exact decode_of_encode_eq (by decide) (by decide)

/-- Settles O6: the end of the operation, outcome by outcome. -/
theorem stepRunsTheDecodedOperation : Obligations.StepRunsTheDecodedOperation := by
  intro s d i hc hf hl hi
  rw [step_of_decode hc hf hl hi]
  change finish (exec i { dropChoice s with iesDraw := d }) = _
  cases exec i { dropChoice s with iesDraw := d } with
  | next t => exact congrArg Host.Outcome.next (completeOperation_eq_ite t)
  | fault f => rfl
  | refused r => rfl

/-- Settles O8: the loader makes the operation next and enabled, and the word it is given the one fetched. -/
theorem fetchedWordRunsNext : Obligations.FetchedWordRunsNext := by
  intro s w i hw hi
  have hfetch : decode (fetch (s.withFetchWord 32 w)) = .ok i := by
    rwa [fetch_withFetchWord s hw hi]
  have hnext : nextChoice (s.withFetchWord 32 w) = .operation s.iesDraw := rfl
  rw [step_of_decode hnext rfl rfl hfetch, dropChoice_withFetchWord s hw]

/-- Settles O13: both states are reset states. -/
theorem resetMeetsTheInvariant : Obligations.ResetMeetsTheInvariant :=
  ⟨isResetState_reset.blockInv, fun _ d hrom hparams => (isResetState_resetStep d hrom hparams).blockInv⟩

end Sys2Proof.Proofs
end
